-- ==== Sys2Proof/Word.lean ====
section
/-! DEFINITION. The types the fields of the machine are made of: the 32-bit word, the slot index, the slot kind. -/

namespace Sys2Proof

/-- A 32-bit word: every interface register, period, countdown, callback reference, parameter and
count (00_scope.md R3: W_TICK, W_CNT, W_CB, W_PARAM and W_REG are all 32). -/
abbrev Word := BitVec 32

/-- A slot index, 0 to 15 (00_scope.md R3: N_SLOTS is 16; 10_state.md R10). -/
abbrev SlotId := Fin 16

/-- What a slot does after it has fired (10_state.md R17: ONCE is 0, FOREVER is 1, NTIMES is 2).
The number 3 is reserved and never stored, so it has no constructor (log entry 7). -/
inductive Kind where
  | once
  | forever
  | ntimes
deriving DecidableEq, Repr, Inhabited

end Sys2Proof
end

