-- ==== Sys2Proof/Config.lean ====
section
/-! DEFINITION. What the spec leaves to the platform (its OPEN parameters) and the free values: constants
without a body, so that a statement about the machine holds whatever they are. -/

namespace Sys2Proof.Config

/-- Free value: whether the trigger can realise a nonzero period of so many microseconds
(43_trigger_control.md R120; log entry 5). -/
opaque trigOkNonzero : Word → Bool

/-- The trigger's answer to an arm request, `trig_ok` of 00_scope.md R3. The only constraint is
`trig_ok(0) = false` (43_trigger_control.md R120). -/
def trigOk (period : Word) : Bool :=
  period != 0 && trigOkNonzero period

/-- Free value: the window's bus address in words (00_scope.md R3: BASE is OPEN; log entry 6). -/
opaque baseWords : Nat

/-- The bus address of the register window, a multiple of 4 (20_memory.md R41). -/
def base : Nat := 4 * baseWords

/-! Free values that the `n`-th reset leaves in the state that 10_state.md R30 calls unspecified
(log entry 4). The slot fields take the number of the reset and the slot's index. -/

opaque deadKind : Nat → SlotId → Kind
opaque deadPeriod : Nat → SlotId → Word
opaque deadRemaining : Nat → SlotId → Word
opaque deadCb : Nat → SlotId → Word
opaque deadHasParam : Nat → SlotId → Bool
opaque deadParam : Nat → SlotId → Word
opaque deadCount : Nat → SlotId → Word
opaque deadScanIdx : Nat → SlotId
opaque deadDispSlot : Nat → SlotId
opaque deadDispCb : Nat → Word
opaque deadDispHasParam : Nat → Bool
opaque deadDispParam : Nat → Word
opaque deadTrigPeriod : Nat → Word

end Sys2Proof.Config
end

