-- ==== Sys2Proof/Syntax.lean ====
section
/-! DEFINITION. The thirteen commands, one constructor per row of spec/opcode_table.json (30_encoding.md R62). -/

namespace Sys2Proof

/-- A command. `p` is the P bit of a create (1: the callback takes the opaque parameter,
30_encoding.md R60); `slot` is the slot identifier of a control command as an unsigned number
(30_encoding.md R65), of which 16 to 255 name no slot. -/
inductive Instr where
  | createOnce (p : Bool)
  | createForever (p : Bool)
  | createN (p : Bool)
  | delete (slot : Nat)
  | enable (slot : Nat)
  | disable (slot : Nat)
  | restart (slot : Nat)
  | tick
  | done
  | tarm
  | tstart
  | tstop
  | trestart
deriving DecidableEq, Repr

end Sys2Proof
end

