-- ==== Sys2Proof/Machine/State.lean ====
section
/-! DEFINITION. The state of the block as plain data, the events from outside, what an observer sees, the reasons a step can
stop, and the state after reset (10_state.md). -/

namespace Sys2Proof.Machine

/-- One logical timer slot (10_state.md R11). -/
structure Slot where
  /-- 1: occupied, 0: FREE (R12). -/
  alloc : Bool
  /-- Takes part in dispatch (R12). -/
  enabled : Bool
  /-- What happens after a firing (R17). -/
  kind : Kind
  /-- The interval in ticks (R13). -/
  period : Word
  /-- The countdown (R14). -/
  remaining : Word
  /-- The opaque callback reference (R15). -/
  cb : Word
  /-- The callback takes the opaque parameter (R15). -/
  hasParam : Bool
  /-- The opaque parameter (R15). -/
  param : Word
  /-- Invocations still to come, signed, or the FOREVER sentinel (R16). -/
  count : Word
deriving DecidableEq, Repr

/-- The slot table, `slot[0]` to `slot[15]` (10_state.md R10). -/
abbrev Table := Vector Slot 16

/-- Where a tick in progress stands (10_state.md R22). -/
inductive Phase where
  /-- No scan in progress. -/
  | idle
  /-- About to visit `slot[scan_idx]`. -/
  | scan
  /-- `slot[scan_idx]` has fired and its callback has not completed. -/
  | waitCb
deriving DecidableEq, Repr

/-- Sequencing and hidden state of the scan engine (10_state.md R22, R23, R24). -/
structure Engine where
  phase : Phase
  /-- The index being visited; meaningful only outside IDLE (R22). -/
  scanIdx : SlotId
  /-- A tick event has arrived and its scan has not started (R23). -/
  tickPend : Bool
  /-- Sticky: at least one tick event was lost (R23). -/
  overrun : Bool
  /-- The slot that fired has not been deleted since (R24). -/
  curLive : Bool
deriving DecidableEq, Repr

/-- The dispatch latches (10_state.md R24). -/
structure DispLatch where
  /-- A dispatch is outstanding; the output `irq_o` is this bit. -/
  valid : Bool
  slot : SlotId
  cb : Word
  hasParam : Bool
  param : Word
deriving DecidableEq, Repr

/-- The operand registers `ARG_PERIOD`, `ARG_COUNT`, `ARG_CB`, `ARG_PARAM` (10_state.md R25). -/
structure Args where
  period : Word
  count : Word
  cb : Word
  param : Word
deriving DecidableEq, Repr

/-- The result codes of 60_exceptions.md R130; codes 4 to 7 are never produced (log entry 8). -/
inductive ResultCode where
  | ok
  | full
  | invalid
  | trigFail
deriving DecidableEq, Repr

/-- The shadow of what the trigger was last told (10_state.md R28). -/
structure Trigger where
  armed : Bool
  run : Bool
  /-- The period of the last successful arm, in microseconds. -/
  period : Word
deriving DecidableEq, Repr

/-- The width of a port access (20_memory.md R43). -/
inductive AccessWidth where
  | byte
  | half
  | word
  | double
  | burst
deriving DecidableEq, Repr

/-- One move of an agent outside the block, or a turn of the scan engine (00_scope.md R4, R5;
20_memory.md R51; log entry 1). Offsets count bytes from BASE (20_memory.md R41). -/
inductive Event where
  /-- The scan engine's turn. -/
  | engine
  /-- A pulse on `tick_i` (42_tick_scan.md R100). -/
  | tick
  /-- A read of the register window. -/
  | read (off : Nat) (width : AccessWidth)
  /-- A write of `v` to the register window. -/
  | write (off : Nat) (width : AccessWidth) (v : Word)
  /-- `rst_i`, asserted and released (70_reset_and_hazards.md R160). -/
  | rst
deriving DecidableEq, Repr

/-- What an outside observer sees of a run (00_scope.md R5; log entry 9). -/
inductive Output where
  /-- A dispatch event (42_tick_scan.md R104). -/
  | dispatch (slot : SlotId) (cb : Word) (hasParam : Bool) (param : Word)
  /-- The answer of a read of the register at offset `off`. -/
  | readData (off : Nat) (v : Word)
  /-- An arm request with its period and the trigger's answer (43_trigger_control.md R120, R121). -/
  | armRequest (period : Word) (answer : Bool)
  | startRequest
  | stopRequest
  | restartRequest
deriving DecidableEq, Repr

/-- The whole state. The last three fields are the model's own (INVENTORY.md). -/
structure State where
  slots : Table
  engine : Engine
  disp : DispLatch
  args : Args
  status : ResultCode
  result : Word
  trig : Trigger
  /-- The events still to come, first to happen first (log entry 1). -/
  schedule : List Event
  /-- What has been seen from outside, newest first (log entry 9). -/
  out : List Output
  /-- How many `rst` events have drawn free values (log entry 4). -/
  resets : Nat
deriving DecidableEq, Repr

/-- Why the machine stops with a fault. -/
inductive Fault where
  /-- Raised by delivering a `tick` event while the trigger is not both armed and running:
  43_trigger_control.md R125 says that no pulse may occur there, so the environment broke its
  contract and the block has no transition. Safe (log entry 12). -/
  | tickWithoutTrigger
deriving DecidableEq, Repr

/-- Why a step is refused. -/
inductive Refusal where
  /-- No meaning for the instruction yet; raised by no arm of `exec`. Safe. -/
  | notModelled (mnemonic : String)
  /-- A port access that is not 32 bits wide, raised by the port (20_memory.md R43). Safe
  (log entry 11). -/
  | accessWidth
  /-- A port access whose offset is no multiple of 4, raised by the port (20_memory.md R43). Safe
  (log entry 11). -/
  | misaligned
  /-- A port access at an offset outside 0x00 to 0x2F, raised by the port: not this block's
  (20_memory.md R41, 93_implementation_defined.md V4). Safe (log entry 11). -/
  | outsideWindow
deriving DecidableEq, Repr

/-- A FREE slot after reset: R30 gives only `alloc` and `enabled`; the other fields are the model's
choice, zero (log entry 3). -/
def Slot.reset : Slot :=
  { alloc := false, enabled := false, kind := .once, period := 0, remaining := 0,
    cb := 0, hasParam := false, param := 0, count := 0 }

/-- The state right after reset (10_state.md R30). What R30 leaves unspecified (the dead slot fields,
`scan_idx`, the latches behind `disp_valid`, `trig_period`) is zero by the model's choice
(log entry 3). -/
def State.reset : State :=
  { slots := Vector.replicate 16 Slot.reset
    engine := { phase := .idle, scanIdx := 0, tickPend := false, overrun := false, curLive := false }
    disp := { valid := false, slot := 0, cb := 0, hasParam := false, param := 0 }
    args := { period := 0, count := 0, cb := 0, param := 0 }
    status := .ok
    result := 0xFFFFFFFF#32
    trig := { armed := false, run := false, period := 0 }
    schedule := []
    out := []
    resets := 0 }

end Sys2Proof.Machine
end

