-- ==== Sys2Proof/Machine/Flags.lean ====
section
/-! DEFINITION. The numbers behind STATUS, FLAGS and DISP_INFO: which bit of a register shows which piece of state. -/

namespace Sys2Proof.Machine

/-- The failure sentinel in `RESULT` (00_scope.md R3: NO_SLOT). -/
def noSlot : Word := 0xFFFFFFFF#32

/-- The number of a result code in `STATUS[2:0]` (60_exceptions.md R130). -/
def ResultCode.code : ResultCode → Word
  | .ok => 0
  | .full => 1
  | .invalid => 2
  | .trigFail => 3

/-- The word whose bit `k` is `b` and whose other bits are 0. -/
def bitAt (k : Nat) (b : Bool) : Word :=
  if b then BitVec.twoPow 32 k else 0

/-- The engine is at work (10_state.md R26, BUSY). -/
def State.busy (s : State) : Bool := s.engine.phase != .idle

/-- The interrupt output `irq_o` (10_state.md R24, 60_exceptions.md R136). -/
def State.irqO (s : State) : Bool := s.disp.valid

/-- The FLAGS register (10_state.md R26); bits 31:6 read as 0. -/
def State.flagsWord (s : State) : Word :=
  bitAt 0 s.busy ||| bitAt 1 s.engine.tickPend ||| bitAt 2 s.engine.overrun |||
    bitAt 3 s.disp.valid ||| bitAt 4 s.trig.armed ||| bitAt 5 s.trig.run

/-- A view of the dispatch latches, 0 while no dispatch is outstanding (10_state.md R27). -/
def State.whileDispatching (s : State) (v : Word) : Word :=
  if s.disp.valid then v else 0

/-- The DISP_INFO register (10_state.md R27). -/
def State.dispInfoWord (s : State) : Word :=
  s.whileDispatching
    (bitAt 31 true ||| bitAt 8 s.disp.hasParam ||| BitVec.ofNat 32 s.disp.slot.val)

end Sys2Proof.Machine
end

