-- ==== Sys2Proof/Machine/Operands.lean ====
section
/-! DEFINITION. Where operands come from: the registers of the window by offset, the check of a port access, and the operands
a create takes from the `ARG_*` registers. -/

namespace Sys2Proof.Machine

/-- The twelve words of the register window (20_memory.md R41). -/
inductive Reg where
  | cmd
  | status
  | result
  | argPeriod
  | argCount
  | argCb
  | argParam
  | dispInfo
  | dispCb
  | dispParam
  | flags
  | reserved
deriving DecidableEq, Repr

/-- The register at a byte offset from BASE (20_memory.md R41). -/
def Reg.ofOffset : Nat → Option Reg
  | 0x00 => some .cmd
  | 0x04 => some .status
  | 0x08 => some .result
  | 0x0C => some .argPeriod
  | 0x10 => some .argCount
  | 0x14 => some .argCb
  | 0x18 => some .argParam
  | 0x1C => some .dispInfo
  | 0x20 => some .dispCb
  | 0x24 => some .dispParam
  | 0x28 => some .flags
  | 0x2C => some .reserved
  | _ => none

/-- The byte offset of a register (20_memory.md R41). -/
def Reg.offset : Reg → Nat
  | .cmd => 0x00
  | .status => 0x04
  | .result => 0x08
  | .argPeriod => 0x0C
  | .argCount => 0x10
  | .argCb => 0x14
  | .argParam => 0x18
  | .dispInfo => 0x1C
  | .dispCb => 0x20
  | .dispParam => 0x24
  | .flags => 0x28
  | .reserved => 0x2C

/-- The bus address of a register (30_encoding.md R72: BASE + off; log entry 6). -/
def Reg.busAddress (r : Reg) : Nat := Config.base + r.offset

/-- The register a port access reaches, or why the access is refused: only whole aligned 32-bit
words inside the window are accesses of the block (20_memory.md R42, R43; log entry 11). -/
def accessReg (off : Nat) (width : AccessWidth) : Except Refusal Reg :=
  if width ≠ .word then .error .accessWidth
  else if off % 4 ≠ 0 then .error .misaligned
  else
    match Reg.ofOffset off with
    | some r => .ok r
    | none => .error .outsideWindow

/-- The run-forever sentinel of `count` (00_scope.md R3: all ones). -/
def foreverCount : Word := 0xFFFFFFFF#32

/-- The operand check of a create of kind `k` (40_slot_create.md R80): the period is not 0, and for
NTIMES the count, read as signed, is positive. -/
def createOperandsOk (k : Kind) (a : Args) : Bool :=
  a.period != 0 && (k != .ntimes || decide (0 < a.count.toInt))

/-- The `count` a create stores (40_slot_create.md R80, 10_state.md R16). -/
def storedCount (k : Kind) (a : Args) : Word :=
  match k with
  | .once => 1
  | .forever => foreverCount
  | .ntimes => a.count

end Sys2Proof.Machine
end

