-- ==== Sys2Proof/Machine/Ops.lean ====
section
/-! DEFINITION. The operations the commands and the engine share: the slot table, STATUS and RESULT, the create procedure,
the tick latch, dispatch entry (this machine's exception entry) and dispatch return. -/

namespace Sys2Proof.Machine

/-! ### Reading and writing the state -/

/-- `slot[i]` (00_scope.md, section 3). -/
def State.slot (s : State) (i : SlotId) : Slot := s.slots.get i

/-- `slot[i] <- x` (00_scope.md, section 3). -/
def State.setSlot (s : State) (i : SlotId) (x : Slot) : State :=
  { s with slots := s.slots.set i.val x i.isLt }

/-- `status(c)` (00_scope.md, section 3; 60_exceptions.md R130). -/
def State.setStatus (s : State) (c : ResultCode) : State := { s with status := c }

/-- `RESULT <- v` (10_state.md R25). -/
def State.setResult (s : State) (v : Word) : State := { s with result := v }

/-- Shows `o` to the outside observer (00_scope.md R5). -/
def State.emit (s : State) (o : Output) : State := { s with out := o :: s.out }

/-- The engine's state becomes `e`. -/
def State.setEngine (s : State) (e : Engine) : State := { s with engine := e }

/-- The trigger shadow becomes `t` (10_state.md R28). -/
def State.setTrig (s : State) (t : Trigger) : State := { s with trig := t }

/-! ### The slot table -/

/-- `first_free()`: the least index whose slot is FREE (40_slot_create.md R80). -/
def State.firstFree (s : State) : Option SlotId :=
  (List.finRange 16).find? fun i => !(s.slot i).alloc

/-- The slot a slot identifier names, if it is valid: `s < 16 and slot[s].alloc = 1`
(41_slot_control.md R90). -/
def State.validSlot (s : State) (n : Nat) : Option SlotId :=
  if h : n < 16 then
    if (s.slot ⟨n, h⟩).alloc then some ⟨n, h⟩ else none
  else none

/-- Runs `f` on the slot a valid identifier names, nothing otherwise, and reports OK either way
(41_slot_control.md R90). -/
def State.onValidSlot (s : State) (n : Nat) (f : SlotId → State → State) : State :=
  match s.validSlot n with
  | some i => (f i s).setStatus .ok
  | none => s.setStatus .ok

/-- Marks a slot FREE; the other fields stay as dead fields (10_state.md R19). -/
def Slot.free (x : Slot) : Slot := { x with alloc := false, enabled := false }

/-- Reloads the countdown (10_state.md R14). -/
def Slot.reload (x : Slot) : Slot := { x with remaining := x.period }

/-- The slot takes part in the scan: it is ENABLED (10_state.md R12, 42_tick_scan.md R102). -/
def Slot.live (x : Slot) : Bool := x.alloc && x.enabled

/-- The countdown one lower, modulo 2^32 (42_tick_scan.md R102, R109). -/
def Slot.countDown (x : Slot) : Slot := { x with remaining := x.remaining - 1 }

/-- The slot fires at this visit: it is ENABLED and its countdown reaches zero
(42_tick_scan.md R102). -/
def Slot.fires (x : Slot) : Bool := x.live && x.remaining - 1 == 0

/-- The slot a create of kind `k` stores (40_slot_create.md R80). -/
def createdSlot (k : Kind) (p : Bool) (a : Args) : Slot :=
  { alloc := true, enabled := true, kind := k, period := a.period, remaining := a.period,
    cb := a.cb, hasParam := p, param := a.param, count := storedCount k a }

/-- `RESULT <- v; status(c)`, how a create ends (40_slot_create.md R80). -/
def State.finishCreate (s : State) (v : Word) (c : ResultCode) : State :=
  (s.setResult v).setStatus c

/-- The create procedure `CREATE(k)` (40_slot_create.md R80): operand check, then capacity check,
then allocation of the first free slot. -/
def State.create (s : State) (k : Kind) (p : Bool) : State :=
  if createOperandsOk k s.args then
    match s.firstFree with
    | some i =>
      (s.setSlot i (createdSlot k p s.args)).finishCreate (BitVec.ofNat 32 i.val) .ok
    | none => s.finishCreate noSlot .full
  else s.finishCreate noSlot .invalid

/-! ### The tick latch and the scan's order -/

/-- A tick event (42_tick_scan.md R100): latched, or lost and recorded if one is already latched. -/
def State.tickEvent (s : State) : State :=
  if s.engine.tickPend then s.setEngine { s.engine with overrun := true }
  else s.setEngine { s.engine with tickPend := true }

/-- `advance` (42_tick_scan.md R103): on to the next index, or the end of the scan. -/
def Engine.advance (e : Engine) : Engine :=
  if e.scanIdx = 15 then { e with phase := .idle }
  else { e with phase := .scan, scanIdx := e.scanIdx + 1 }

/-! ### Dispatch entry and return, which stand for exception entry and return -/

/-- The dispatch event of slot `x` at index `i` (42_tick_scan.md R104). -/
def Slot.dispatchOf (x : Slot) (i : SlotId) : Output := .dispatch i x.cb x.hasParam x.param

/-- Dispatch entry (42_tick_scan.md R102, R104; 60_exceptions.md R138): the latches take a copy of
the firing slot's callback, `disp_valid` rises, and the engine waits for `DONE`. -/
def State.dispatch (s : State) (i : SlotId) : State :=
  { s with
    disp := { valid := true, slot := i, cb := (s.slot i).cb,
              hasParam := (s.slot i).hasParam, param := (s.slot i).param }
    engine := { s.engine with phase := .waitCb, curLive := true }
    out := (s.slot i).dispatchOf i :: s.out }

/-- The post-fire action on a slot (42_tick_scan.md R106). -/
def Slot.postFire (x : Slot) : Slot :=
  match x.kind with
  | .forever => x.reload
  | .ntimes =>
    let c := x.count - 1
    if 0 < c.toInt then { x with count := c, remaining := x.period }
    else { x with count := c, alloc := false, enabled := false }
  | .once => x.free

/-- `postfire(scan_idx)` if the slot that fired was not deleted since (42_tick_scan.md R105, R106). -/
def State.completeFiring (s : State) : State :=
  if s.engine.curLive then s.setSlot s.engine.scanIdx (s.slot s.engine.scanIdx).postFire else s

/-- Dispatch return (42_tick_scan.md R105; 60_exceptions.md R139): the post-fire action, the
dispatch withdrawn, the scan on to the next index. -/
def State.dispatchReturn (s : State) : State :=
  { s.completeFiring with
    disp := { s.disp with valid := false }
    engine := { s.engine with curLive := false }.advance }

/-! ### Reset -/

/-- What the `n`-th reset leaves in slot `i`: FREE, every other field unspecified
(10_state.md R30; log entry 4). -/
def deadSlot (n : Nat) (i : SlotId) : Slot :=
  { alloc := false, enabled := false, kind := Config.deadKind n i,
    period := Config.deadPeriod n i, remaining := Config.deadRemaining n i,
    cb := Config.deadCb n i, hasParam := Config.deadHasParam n i,
    param := Config.deadParam n i, count := Config.deadCount n i }

/-- `rst_i` asserted and released (70_reset_and_hazards.md R160, 10_state.md R30): what R30 leaves
unspecified becomes a free value (log entry 4). The spec is silent on whether a reset sends the trigger
a request; none is sent (DESIGN CHOICE, unsafe; log entry 20). -/
def State.resetBlock (s : State) : State :=
  let n := s.resets
  { slots := Vector.ofFn (deadSlot n)
    engine := { phase := .idle, scanIdx := Config.deadScanIdx n, tickPend := false,
                overrun := false, curLive := false }
    disp := { valid := false, slot := Config.deadDispSlot n, cb := Config.deadDispCb n,
              hasParam := Config.deadDispHasParam n, param := Config.deadDispParam n }
    args := { period := 0, count := 0, cb := 0, param := 0 }
    status := .ok
    result := noSlot
    trig := { armed := false, run := false, period := Config.deadTrigPeriod n }
    schedule := s.schedule
    out := s.out
    resets := n + 1 }

end Sys2Proof.Machine
end

