-- ==== Sys2Proof/Machine/Control.lean ====
section
/-! DEFINITION. The four slot control commands (41_slot_control.md). -/

namespace Sys2Proof.Machine

/-- Frees slot `i`; if it is the slot under dispatch, the coming `DONE` applies no post-fire action
(41_slot_control.md R91). -/
def State.deleteSlot (i : SlotId) (s : State) : State :=
  let freed := s.setSlot i (s.slot i).free
  if s.engine.phase = .waitCb ∧ s.engine.scanIdx = i then
    freed.setEngine { s.engine with curLive := false }
  else freed

/-- `DELETE` (41_slot_control.md R91). -/
def execDelete (slot : Nat) (s : State) : Host.Outcome State Fault Refusal :=
  .next (s.onValidSlot slot State.deleteSlot)

/-- `ENABLE` (41_slot_control.md R92). -/
def execEnable (slot : Nat) (s : State) : Host.Outcome State Fault Refusal :=
  .next (s.onValidSlot slot fun i s => s.setSlot i { s.slot i with enabled := true })

/-- `DISABLE` (41_slot_control.md R93). -/
def execDisable (slot : Nat) (s : State) : Host.Outcome State Fault Refusal :=
  .next (s.onValidSlot slot fun i s => s.setSlot i { s.slot i with enabled := false })

/-- `RESTART` (41_slot_control.md R94). -/
def execRestart (slot : Nat) (s : State) : Host.Outcome State Fault Refusal :=
  .next (s.onValidSlot slot fun i s => s.setSlot i (s.slot i).reload)

end Sys2Proof.Machine
end

