-- ==== Sys2Proof/Machine/Create.lean ====
section
/-! DEFINITION. The three creates (40_slot_create.md). -/

namespace Sys2Proof.Machine

/-- `CREATE_ONCE` (40_slot_create.md R81). -/
def execCreateOnce (p : Bool) (s : State) : Host.Outcome State Fault Refusal :=
  .next (s.create .once p)

/-- `CREATE_FOREVER` (40_slot_create.md R82). -/
def execCreateForever (p : Bool) (s : State) : Host.Outcome State Fault Refusal :=
  .next (s.create .forever p)

/-- `CREATE_N` (40_slot_create.md R83). -/
def execCreateN (p : Bool) (s : State) : Host.Outcome State Fault Refusal :=
  .next (s.create .ntimes p)

end Sys2Proof.Machine
end

