-- ==== Sys2Proof/Machine/Scan.lean ====
section
/-! DEFINITION. The scan engine's own steps and the commands TICK and DONE (42_tick_scan.md). -/

namespace Sys2Proof.Machine

/-- Scan start (42_tick_scan.md R101). -/
def State.scanStart (s : State) : State :=
  s.setEngine { s.engine with tickPend := false, phase := .scan, scanIdx := 0 }

/-- Visit of `slot[scan_idx]` (42_tick_scan.md R102). -/
def State.visit (s : State) : State :=
  let i := s.engine.scanIdx
  if (s.slot i).live then
    let counted := s.setSlot i (s.slot i).countDown
    if (counted.slot i).remaining = 0 then counted.dispatch i
    else counted.setEngine s.engine.advance
  else s.setEngine s.engine.advance

/-- The scan engine's turn: its one enabled step, or nothing where it has none
(42_tick_scan.md R101, R102, R114; 60_exceptions.md R147; log entry 13). -/
def State.engineTurn (s : State) : State :=
  match s.engine.phase with
  | .idle => if s.engine.tickPend then s.scanStart else s
  | .scan => s.visit
  | .waitCb => s

/-- `TICK` (42_tick_scan.md R100). -/
def execTick (s : State) : Host.Outcome State Fault Refusal :=
  .next (s.tickEvent.setStatus .ok)

/-- `DONE` (42_tick_scan.md R105). -/
def execDone (s : State) : Host.Outcome State Fault Refusal :=
  if s.engine.phase = .waitCb then .next (s.dispatchReturn.setStatus .ok)
  else .next (s.setStatus .invalid)

end Sys2Proof.Machine
end

