-- ==== Sys2Proof/Machine/Trigger.lean ====
section
/-! DEFINITION. The four trigger commands (43_trigger_control.md). -/

namespace Sys2Proof.Machine

/-- `TARM` (43_trigger_control.md R121): the arm request and its answer fall inside the command
(R120). -/
def execTarm (s : State) : Host.Outcome State Fault Refusal :=
  let asked := s.emit (.armRequest s.args.period (Config.trigOk s.args.period))
  if Config.trigOk s.args.period then
    .next ((asked.setTrig { armed := true, run := true, period := s.args.period }).setStatus .ok)
  else .next (asked.setStatus .trigFail)

/-- `TSTART` (43_trigger_control.md R122): a no-op but for STATUS if the trigger was never armed
(92_eei_decisions.md D22). -/
def execTstart (s : State) : Host.Outcome State Fault Refusal :=
  if s.trig.armed then
    .next (((s.setTrig { s.trig with run := true }).emit .startRequest).setStatus .ok)
  else .next (s.setStatus .ok)

/-- `TSTOP` (43_trigger_control.md R123). The request goes out to a trigger never armed too
(DEDUCED, unsafe; log entry 10). -/
def execTstop (s : State) : Host.Outcome State Fault Refusal :=
  .next (((s.setTrig { s.trig with run := false }).emit .stopRequest).setStatus .ok)

/-- `TRESTART` (43_trigger_control.md R124): a no-op but for STATUS if the trigger was never armed,
so no request goes out then (92_eei_decisions.md D22). -/
def execTrestart (s : State) : Host.Outcome State Fault Refusal :=
  if s.trig.armed then
    .next (((s.setTrig { s.trig with run := true }).emit .restartRequest).setStatus .ok)
  else .next (s.setStatus .ok)

end Sys2Proof.Machine
end

