-- ==== Sys2Proof/Machine/Dispatch.lean ====
section
/-! DEFINITION. One arm per command: which meaning a command has. -/

namespace Sys2Proof.Machine

def exec (i : Instr) (s : State) : Host.Outcome State Fault Refusal :=
  match i with
  | .createOnce p => Sys2Proof.Machine.execCreateOnce p s
  | .createForever p => Sys2Proof.Machine.execCreateForever p s
  | .createN p => Sys2Proof.Machine.execCreateN p s
  | .delete slot => Sys2Proof.Machine.execDelete slot s
  | .enable slot => Sys2Proof.Machine.execEnable slot s
  | .disable slot => Sys2Proof.Machine.execDisable slot s
  | .restart slot => Sys2Proof.Machine.execRestart slot s
  | .tick => Sys2Proof.Machine.execTick s
  | .done => Sys2Proof.Machine.execDone s
  | .tarm => Sys2Proof.Machine.execTarm s
  | .tstart => Sys2Proof.Machine.execTstart s
  | .tstop => Sys2Proof.Machine.execTstop s
  | .trestart => Sys2Proof.Machine.execTrestart s

end Sys2Proof.Machine
end

