-- ==== Sys2Proof/WellFormed.lean ====
section
/-! DEFINITION. Which commands have an encoding: the slot identifier fits the 8-bit field `slot` (30_encoding.md R60, R65). -/

namespace Sys2Proof

/-- The identifier fits the field w[15:8], range 0 to 255 (30_encoding.md R65). -/
def slotFieldFits (slot : Nat) : Bool := decide (slot < 256)

/-- A command that some command word stands for. -/
def Instr.wf : Instr → Bool
  | .createOnce _ => true
  | .createForever _ => true
  | .createN _ => true
  | .delete slot => slotFieldFits slot
  | .enable slot => slotFieldFits slot
  | .disable slot => slotFieldFits slot
  | .restart slot => slotFieldFits slot
  | .tick => true
  | .done => true
  | .tarm => true
  | .tstart => true
  | .tstop => true
  | .trestart => true

end Sys2Proof
end

