-- ==== Sys2Proof/Decode.lean ====
section
/-! DEFINITION. From a command word to a command or the reason why the word is reserved, and back (30_encoding.md R60 to R67). -/

namespace Sys2Proof

/-- `w[hi:lo]`, the bits from `hi` down to `lo` as an unsigned number (00_scope.md, section 3). -/
def slice (w : Word) (hi lo : Nat) : Nat :=
  (w.extractLsb' lo (hi - lo + 1)).toNat

/-! The fields of a command word (30_encoding.md R60). -/

def fieldOp (w : Word) : Nat := slice w 3 0
def fieldKind (w : Word) : Nat := slice w 5 4
def fieldP (w : Word) : Bool := w.getLsbD 6
def fieldBit7 (w : Word) : Bool := w.getLsbD 7
def fieldSlot (w : Word) : Nat := slice w 15 8
def fieldHigh (w : Word) : Nat := slice w 31 16

/-- Why a word is reserved: the clauses of 30_encoding.md R66, under names of the model's own
(log entry 15). -/
inductive Reserved where
  /-- One of bits [31:16] is set. -/
  | highBits
  /-- Bit [7] is set. -/
  | bit7
  /-- `op` is 0 or 12 to 15. -/
  | opcode
  /-- A create (`op` 1) with `kind` 3. -/
  | createKind
  /-- A create with a nonzero slot field. -/
  | createSlot
  /-- A control command (`op` 2 to 5) with `kind` nonzero or `P` set. -/
  | controlBits
  /-- A command without operand (`op` 6 to 11) with `kind`, `P` or `slot` nonzero. -/
  | plainBits
deriving DecidableEq, Repr

/-- Format C (30_encoding.md R61, R63): `op` is 1. -/
def decodeCreate (kind : Nat) (p : Bool) (slot : Nat) : Except Reserved Instr :=
  if slot ≠ 0 then .error .createSlot
  else
    match kind with
    | 0 => .ok (.createOnce p)
    | 1 => .ok (.createForever p)
    | 2 => .ok (.createN p)
    | _ => .error .createKind

/-- Format S (30_encoding.md R61): `kind` and `P` must be 0. -/
def decodeControl (kind : Nat) (p : Bool) (i : Instr) : Except Reserved Instr :=
  if kind ≠ 0 ∨ p = true then .error .controlBits else .ok i

/-- Format Z (30_encoding.md R61): every bit above `op` must be 0. -/
def decodePlain (kind : Nat) (p : Bool) (slot : Nat) (i : Instr) : Except Reserved Instr :=
  if kind ≠ 0 ∨ p = true ∨ slot ≠ 0 then .error .plainBits else .ok i

/-- The opcode map (30_encoding.md R62) on the fields below bit 16. -/
def decodeOp (op kind : Nat) (p : Bool) (slot : Nat) : Except Reserved Instr :=
  match op with
  | 1 => decodeCreate kind p slot
  | 2 => decodeControl kind p (.delete slot)
  | 3 => decodeControl kind p (.enable slot)
  | 4 => decodeControl kind p (.disable slot)
  | 5 => decodeControl kind p (.restart slot)
  | 6 => decodePlain kind p slot .tick
  | 7 => decodePlain kind p slot .done
  | 8 => decodePlain kind p slot .tarm
  | 9 => decodePlain kind p slot .tstart
  | 10 => decodePlain kind p slot .tstop
  | 11 => decodePlain kind p slot .trestart
  | _ => .error .opcode

/-- The command a word written to `CMD` stands for, or why the word is reserved
(30_encoding.md R62, R66). -/
def decode (w : Word) : Except Reserved Instr :=
  if fieldHigh w ≠ 0 then .error .highBits
  else if fieldBit7 w = true then .error .bit7
  else decodeOp (fieldOp w) (fieldKind w) (fieldP w) (fieldSlot w)

/-- A command word from its fields (30_encoding.md R60): op in [3:0], kind in [5:4], P in [6],
slot in [15:8], every other bit 0. -/
def wordOf (op kind : Nat) (p : Bool) (slot : Nat) : Word :=
  BitVec.ofNat 32 (op + 16 * kind + 64 * p.toNat + 256 * slot)

/-- The word of a command (30_encoding.md R62, R69). -/
def encode : Instr → Word
  | .createOnce p => wordOf 1 0 p 0
  | .createForever p => wordOf 1 1 p 0
  | .createN p => wordOf 1 2 p 0
  | .delete slot => wordOf 2 0 false slot
  | .enable slot => wordOf 3 0 false slot
  | .disable slot => wordOf 4 0 false slot
  | .restart slot => wordOf 5 0 false slot
  | .tick => wordOf 6 0 false 0
  | .done => wordOf 7 0 false 0
  | .tarm => wordOf 8 0 false 0
  | .tstart => wordOf 9 0 false 0
  | .tstop => wordOf 10 0 false 0
  | .trestart => wordOf 11 0 false 0

/-- The word written to `CMD` for a table word of `nbits` bits: every bit above `nbits` is 0.
A command is one 32-bit word (30_encoding.md R60), so a number that needs more bits is none. -/
def commandWord (nbits w : Nat) : Option Word :=
  let v := w % 2 ^ nbits
  if v < 2 ^ 32 then some (BitVec.ofNat 32 v) else none

/-- What the decoder reads from a table word of `nbits` bits, bit 0 its least significant
(log entry 19). -/
def decodeTableWord (nbits w : Nat) : Option Instr :=
  match commandWord nbits w with
  | none => none
  | some word =>
    match decode word with
    | .ok i => some i
    | .error _ => none

end Sys2Proof
end

