-- ==== Sys2Proof/Machine/Port.lean ====
section
/-! DEFINITION. The register window and the delivery of the next event: what each event does, and where a step finds the
command it runs (20_memory.md, 30_encoding.md R67). -/

namespace Sys2Proof.Machine

/-- `RegRead` (20_memory.md R41; 10_state.md R25 to R27). -/
def State.regRead (s : State) : Reg → Word
  | .cmd => 0
  | .status => s.status.code
  | .result => s.result
  | .argPeriod => s.args.period
  | .argCount => s.args.count
  | .argCb => s.args.cb
  | .argParam => s.args.param
  | .dispInfo => s.dispInfoWord
  | .dispCb => s.whileDispatching s.disp.cb
  | .dispParam => s.whileDispatching s.disp.param
  | .flags => s.flagsWord
  | .reserved => 0

/-- A write of FLAGS: bit 2 set clears `overrun`, every other bit is ignored
(20_memory.md R41, R44). -/
def State.writeFlags (s : State) (v : Word) : State :=
  if v.getLsbD 2 then s.setEngine { s.engine with overrun := false } else s

/-- `RegWrite` of a register other than `CMD` (20_memory.md R41, R45). `CMD` runs a command and is
written by `commandWrite`. -/
def State.regWrite (s : State) (v : Word) : Reg → State
  | .cmd => s
  | .status => s
  | .result => s
  | .argPeriod => { s with args := { s.args with period := v } }
  | .argCount => { s with args := { s.args with count := v } }
  | .argCb => { s with args := { s.args with cb := v } }
  | .argParam => { s with args := { s.args with param := v } }
  | .dispInfo => s
  | .dispCb => s
  | .dispParam => s
  | .flags => s.writeFlags v
  | .reserved => s

/-- What the next event comes to: a command to run, or the whole outcome of the step. -/
inductive Fetched where
  | command (i : Instr) (s : State)
  | finished (o : Host.Outcome State Fault Refusal)

/-- A write of `w` to `CMD` (30_encoding.md R67): the command, or for a reserved word
`STATUS <- INVALID` and nothing else (R66). -/
def State.commandWrite (s : State) (w : Word) : Fetched :=
  match decode w with
  | .ok i => .command i s
  | .error _ => .finished (.next (s.setStatus .invalid))

/-- A read of the window: no side effect on the block (20_memory.md R44); the answer is seen
outside. -/
def State.readAccess (s : State) (off : Nat) (width : AccessWidth) : Fetched :=
  match accessReg off width with
  | .error e => .finished (.refused e)
  | .ok r => .finished (.next (s.emit (.readData off (s.regRead r))))

/-- A write of the window. -/
def State.writeAccess (s : State) (off : Nat) (width : AccessWidth) (v : Word) : Fetched :=
  match accessReg off width with
  | .error e => .finished (.refused e)
  | .ok .cmd => s.commandWrite v
  | .ok r => .finished (.next (s.regWrite v r))

/-- A pulse on `tick_i`, allowed only while the trigger is armed and running
(43_trigger_control.md R125; log entry 12). -/
def State.tickPulse (s : State) : Fetched :=
  if s.trig.armed && s.trig.run then .finished (.next s.tickEvent)
  else .finished (.fault .tickWithoutTrigger)

/-- One event takes place (00_scope.md R5). -/
def State.deliver (s : State) : Event → Fetched
  | .engine => .finished (.next s.engineTurn)
  | .tick => s.tickPulse
  | .read off width => s.readAccess off width
  | .write off width v => s.writeAccess off width v
  | .rst => .finished (.next s.resetBlock)

/-- The next transition: the first event of the schedule, or with none left the scan engine's turn
(log entry 1). -/
def State.fetch (s : State) : Fetched :=
  match s.schedule with
  | [] => .finished (.next s.engineTurn)
  | e :: rest => { s with schedule := rest }.deliver e

/-- The port access that issues a command word: a write of `CMD` (30_encoding.md R60). -/
def cmdWrite (w : Word) : Event := .write 0x00 .word w

end Sys2Proof.Machine
end

