-- ==== Sys2Proof/Machine/Step.lean ====
section
/-! DEFINITION. One transition of the machine, and where a command word is placed so that the next transition runs it. -/

namespace Sys2Proof.Machine

/-- One atomic transition (20_memory.md R46, R51): a command runs by `exec`, everything else is
finished by the delivery of its event. -/
def step (s : State) : Host.Outcome State Fault Refusal :=
  match s.fetch with
  | .command i t => exec i t
  | .finished o => o

/-- The command word of `nbits` bits is written to `CMD` by the next transition (log entry 2).
A number that is no 32-bit word is no command, and `s` is left as it is. -/
def State.withFetchWord (s : State) (nbits w : Nat) : State :=
  match commandWord nbits w with
  | some word => { s with schedule := cmdWrite word :: s.schedule }
  | none => s

end Sys2Proof.Machine
end

