-- ==== Sys2Proof/Safety.lean ====
section
/-! DEFINITION. The words the statements are made of: the slot state machine, the invariants, quiescence, a tick as a whole,
states that differ in dead fields only, and the runs of the block with their fairness. -/

namespace Sys2Proof.Machine

/-- The three states of a slot (10_state.md R12). -/
inductive SlotState where
  | free
  | enabled
  | disabled
deriving DecidableEq, Repr

/-- The state of a slot (10_state.md R12). `alloc = 0, enabled = 1` is never produced (R29 item 1)
and is read as FREE. -/
def Slot.state (x : Slot) : SlotState :=
  if x.alloc then if x.enabled then .enabled else .disabled else .free

/-- `first_free()` read as a property: `i` is FREE and no lower slot is (40_slot_create.md R80). -/
abbrev State.IsFirstFree (s : State) (i : SlotId) : Prop :=
  (s.slot i).alloc = false ∧ ∀ j : SlotId, j < i → (s.slot j).alloc = true

/-- Every slot is occupied (40_slot_create.md R80, R84 item 2). -/
abbrev State.TableFull (s : State) : Prop := ∀ i : SlotId, (s.slot i).alloc = true

/-- `valid(s)`: the identifier is below 16 and names an occupied slot (41_slot_control.md R90). -/
abbrev State.ValidId (s : State) (n : Nat) : Prop :=
  ∃ i : SlotId, i.val = n ∧ (s.slot i).alloc = true

/-- The create command of a kind (40_slot_create.md R81 to R83). -/
def createInstr (k : Kind) (p : Bool) : Instr :=
  match k with
  | .once => .createOnce p
  | .forever => .createForever p
  | .ntimes => .createN p

/-- The operands of a create of kind `k` that 40_slot_create.md R80 lets through: a nonzero period,
and for NTIMES a count that is positive as a signed number. -/
abbrev State.OperandsLegal (s : State) (k : Kind) : Prop :=
  s.args.period ≠ 0 ∧ (k = .ntimes → 0 < s.args.count.toInt)

/-- The code each command leaves, the table of 60_exceptions.md R131. -/
def codeLeftBy (i : Instr) (s : State) : ResultCode :=
  match i with
  | .createOnce _ | .createForever _ =>
    if s.args.period = 0 then .invalid else if s.TableFull then .full else .ok
  | .createN _ =>
    if s.args.period = 0 ∨ s.args.count.toInt ≤ 0 then .invalid
    else if s.TableFull then .full else .ok
  | .done => if s.engine.phase = .waitCb then .ok else .invalid
  | .tarm => if Config.trigOk s.args.period then .ok else .trigFail
  | .delete _ | .enable _ | .disable _ | .restart _ => .ok
  | .tick | .tstart | .tstop | .trestart => .ok

/-! ### The invariants of 10_state.md R29 -/

/-- Items 1 to 4 of 10_state.md R29, for the slot at index `i`; `kind` is in 0, 1, 2 by its type. -/
abbrev State.SlotInv (s : State) (i : SlotId) : Prop :=
  ((s.slot i).enabled = true → (s.slot i).alloc = true) ∧
  ((s.slot i).alloc = true →
    1 ≤ (s.slot i).period.toNat ∧
    (s.slot i).remaining.toNat ≤ (s.slot i).period.toNat ∧
    ((s.slot i).remaining = 0 →
      s.engine.phase = .waitCb ∧ s.engine.scanIdx = i ∧ s.engine.curLive = true) ∧
    ((s.slot i).kind = .ntimes →
      1 ≤ (s.slot i).count.toInt ∧ (s.slot i).count.toInt ≤ 2 ^ 31 - 1))

/-- Item 6 of 10_state.md R29. -/
abbrev State.DispatchInv (s : State) : Prop :=
  (s.disp.valid = true ↔ s.engine.phase = .waitCb) ∧
  (s.engine.curLive = true →
    s.engine.phase = .waitCb ∧ (s.slot s.engine.scanIdx).alloc = true)

/-- Item 8 of 10_state.md R29; `STATUS` is in 0 to 3 by its type. -/
abbrev State.ResultInv (s : State) : Prop :=
  s.result = 0xFFFFFFFF#32 ∨ s.result.toNat ≤ 15

/-- The invariants of 10_state.md R29. Items 5 (`scan_idx` is at most 15), the kinds of item 2 and
the codes of item 8 hold by the types. -/
abbrev State.Inv (s : State) : Prop :=
  (∀ i : SlotId, s.SlotInv i) ∧ s.DispatchInv ∧
  (s.trig.run = true → s.trig.armed = true) ∧ s.ResultInv

/-! ### Quiescence, and a tick as a whole -/

/-- No scan in progress and no tick waiting (42_tick_scan.md R114). -/
abbrev State.Quiescent (s : State) : Prop :=
  s.engine.phase = .idle ∧ s.engine.tickPend = false

/-- What one tick with an empty callback makes of a slot (the loop body of 42_tick_scan.md R110). -/
def Slot.afterTick (x : Slot) : Slot :=
  if x.alloc && x.enabled then
    if x.remaining - 1 = 0 then { x with remaining := 0 }.postFire
    else { x with remaining := x.remaining - 1 }
  else x

/-- The dispatch events of one tick, in ascending slot order (the loop of 42_tick_scan.md R110). -/
def State.dueNow (s : State) : List Output :=
  (List.finRange 16).filterMap fun i =>
    if (s.slot i).fires then some ((s.slot i).dispatchOf i) else none

/-- The callback executor whose callbacks are empty: an outstanding dispatch is answered with `DONE`
at once (42_tick_scan.md R110). -/
def State.answered (s : State) : State :=
  if s.engine.phase = .waitCb then { s with schedule := cmdWrite (encode .done) :: s.schedule } else s

/-- At most `n` transitions with empty callbacks, until the scan has ended. -/
def emptyTick : Nat → State → Host.Outcome State Fault Refusal
  | 0, s => .next s
  | n + 1, s =>
    match step s.answered with
    | .next t => if t.engine.phase = .idle then .next t else emptyTick n t
    | .fault r => .fault r
    | .refused r => .refused r

/-- `TICKW` with empty callbacks (30_encoding.md R70): the command `TICK`, then the scan it asks for,
which takes at most 33 transitions (the start, 16 visits, 16 answers). -/
def tickAndWait (s : State) : Host.Outcome State Fault Refusal :=
  match step { s with schedule := cmdWrite (encode .tick) :: s.schedule } with
  | .next t => emptyTick 33 t
  | .fault r => .fault r
  | .refused r => .refused r

/-- `TICKW k` (30_encoding.md R70). -/
def ticksAndWait : Nat → State → Host.Outcome State Fault Refusal
  | 0, s => .next s
  | k + 1, s =>
    match tickAndWait s with
    | .next t => ticksAndWait k t
    | .fault r => .fault r
    | .refused r => .refused r

/-- How many dispatch events of slot `i` an observer has seen. -/
def State.dispatchCount (s : State) (i : SlotId) : Nat :=
  s.out.countP fun o =>
    match o with
    | .dispatch j _ _ _ => j == i
    | _ => false

/-! ### Several transitions, several commands -/

/-- `n` transitions. -/
def steps : Nat → State → Host.Outcome State Fault Refusal
  | 0, s => .next s
  | n + 1, s =>
    match step s with
    | .next t => steps n t
    | .fault r => .fault r
    | .refused r => .refused r

/-- Commands one after another, as a callback issues them. -/
def execAll : List Instr → State → Host.Outcome State Fault Refusal
  | [], s => .next s
  | i :: is, s =>
    match exec i s with
    | .next t => execAll is t
    | .fault r => .fault r
    | .refused r => .refused r

/-- It is the scan engine's turn: its event heads the schedule, or no event is left (log entry 1). -/
abbrev State.EngineMoves (s : State) : Prop :=
  s.schedule.head? = none ∨ s.schedule.head? = some .engine

/-- The next transition is a write of the word of command `i` to `CMD`. -/
abbrev State.Issues (s : State) (i : Instr) : Prop :=
  s.schedule.head? = some (cmdWrite (encode i))

/-- The next transition is a reset. -/
abbrev State.Resets (s : State) : Prop := s.schedule.head? = some .rst

/-! ### States that differ only where the spec says no observation can tell -/

/-- The two slots agree but for the dead fields of a FREE slot (10_state.md R19). -/
abbrev Slot.SameLive (x y : Slot) : Prop :=
  x.alloc = y.alloc ∧ x.enabled = y.enabled ∧ (x.alloc = true → x = y)

/-- The two states agree but for dead fields (10_state.md R19) and for `scan_idx`, the dispatch
latches and `trig_period` where they mean nothing (93_implementation_defined.md V2). -/
abbrev State.SameLive (s t : State) : Prop :=
  (∀ i : SlotId, (s.slot i).SameLive (t.slot i)) ∧
  (s.engine = { t.engine with scanIdx := s.engine.scanIdx } ∧
    (s.engine.phase ≠ .idle → s.engine.scanIdx = t.engine.scanIdx)) ∧
  (s.disp.valid = t.disp.valid ∧ (s.disp.valid = true → s.disp = t.disp)) ∧
  s.args = t.args ∧ s.status = t.status ∧ s.result = t.result ∧
  (s.trig = { t.trig with period := s.trig.period } ∧
    (s.trig.armed = true → s.trig.period = t.trig.period)) ∧
  s.schedule = t.schedule ∧ s.out = t.out ∧ s.resets = t.resets

/-- The two outcomes are of the same sort, with the same reason or with states related by `R`. -/
def sameOutcome (R : State → State → Prop) (a b : Host.Outcome State Fault Refusal) : Prop :=
  match a, b with
  | .next s, .next t => R s t
  | .fault q, .fault r => q = r
  | .refused q, .refused r => q = r
  | _, _ => False

/-! ### Runs and fairness (42_tick_scan.md R114, 43_trigger_control.md R125, 60_exceptions.md R147,
70_reset_and_hazards.md R171; log entry 18) -/

/-- More events arrive from outside. -/
def State.arrive (s : State) (es : List Event) : State := { s with schedule := s.schedule ++ es }

/-- An infinite run: before transition `n` the events `env n` arrive. -/
def IsRun (r : Nat → State) (env : Nat → List Event) : Prop :=
  ∀ n, step ((r n).arrive (env n)) = .next (r (n + 1))

/-- The scan engine has an enabled step (42_tick_scan.md R101, R102). -/
abbrev State.EngineEnabled (s : State) : Prop :=
  (s.engine.phase = .idle ∧ s.engine.tickPend = true) ∨ s.engine.phase = .scan

/-- Weak fairness of the scan engine: not enabled for ever without a turn (R171). -/
def EngineFair (r : Nat → State) (env : Nat → List Event) : Prop :=
  ∀ n, (∀ m, n ≤ m → (r m).EngineEnabled) →
    ∃ m, n ≤ m ∧ ((r m).arrive (env m)).EngineMoves

/-- Weak fairness of the trigger: not running for ever without a pulse (R125). -/
def TriggerFair (r : Nat → State) (env : Nat → List Event) : Prop :=
  ∀ n, (∀ m, n ≤ m → (r m).trig.armed = true ∧ (r m).trig.run = true) →
    ∃ m, n ≤ m ∧ ((r m).arrive (env m)).schedule.head? = some .tick

/-- The executor's duty: every dispatch is answered after finitely many transitions (R147). -/
def CallbacksReturn (r : Nat → State) : Prop :=
  ∀ n, (r n).engine.phase = .waitCb → ∃ m, n ≤ m ∧ (r m).engine.phase ≠ .waitCb

/-- Transition `n` of a run is a scan start (42_tick_scan.md R101). -/
abbrev ScanStartsAt (r : Nat → State) (n : Nat) : Prop :=
  (r n).engine.phase = .idle ∧ (r n).engine.tickPend = true ∧
    (r (n + 1)).engine.phase = .scan ∧ (r (n + 1)).engine.scanIdx = 0

end Sys2Proof.Machine
end

