-- ==== Sys2Proof/Certificates/Slice0/Obligations.lean ====
section
/-! DEFINITION. The statements for the provers. -/

open Sys2Proof Sys2Proof.Machine

/-! ### Encoding (30_encoding.md) -/

/-- Words written out from the bit fields of R60 and R61 decode to the commands of R62, and words
from the clauses of R66 to none. -/
def Obligations.WordsDecodeToTheirCommands : Prop :=
  decode 0x00000001#32 = .ok (.createOnce false) ∧
  decode 0x00000041#32 = .ok (.createOnce true) ∧
  decode 0x00000011#32 = .ok (.createForever false) ∧
  decode 0x00000061#32 = .ok (.createN true) ∧
  decode 0x0000FF02#32 = .ok (.delete 255) ∧
  decode 0x00000103#32 = .ok (.enable 1) ∧
  decode 0x00000704#32 = .ok (.disable 7) ∧
  decode 0x00000F05#32 = .ok (.restart 15) ∧
  decode 0x00000006#32 = .ok .tick ∧
  decode 0x00000007#32 = .ok .done ∧
  decode 0x00000008#32 = .ok .tarm ∧
  decode 0x0000000B#32 = .ok .trestart ∧
  decode 0x00000000#32 = .error .opcode ∧
  decode 0x0000000C#32 = .error .opcode ∧
  decode 0x00000031#32 = .error .createKind ∧
  decode 0x00000101#32 = .error .createSlot ∧
  decode 0x00000012#32 = .error .controlBits ∧
  decode 0x00000107#32 = .error .plainBits ∧
  decode 0x00000086#32 = .error .bit7 ∧
  decode 0x00010006#32 = .error .highBits

/-- R62: "the word `w` is this command iff `w & mask = match`", row by row, with the operand that
the free bits of the mask hold. -/
def Obligations.DecodeFollowsMatchAndMask : Prop :=
  ∀ w : Word,
    ((∃ p, decode w = .ok (.createOnce p)) ↔ w &&& 0xFFFFFFBF#32 = 0x00000001#32) ∧
    ((∃ p, decode w = .ok (.createForever p)) ↔ w &&& 0xFFFFFFBF#32 = 0x00000011#32) ∧
    ((∃ p, decode w = .ok (.createN p)) ↔ w &&& 0xFFFFFFBF#32 = 0x00000021#32) ∧
    ((∃ n, decode w = .ok (.delete n)) ↔ w &&& 0xFFFF00FF#32 = 0x00000002#32) ∧
    ((∃ n, decode w = .ok (.enable n)) ↔ w &&& 0xFFFF00FF#32 = 0x00000003#32) ∧
    ((∃ n, decode w = .ok (.disable n)) ↔ w &&& 0xFFFF00FF#32 = 0x00000004#32) ∧
    ((∃ n, decode w = .ok (.restart n)) ↔ w &&& 0xFFFF00FF#32 = 0x00000005#32) ∧
    (decode w = .ok .tick ↔ w &&& 0xFFFFFFFF#32 = 0x00000006#32) ∧
    (decode w = .ok .done ↔ w &&& 0xFFFFFFFF#32 = 0x00000007#32) ∧
    (decode w = .ok .tarm ↔ w &&& 0xFFFFFFFF#32 = 0x00000008#32) ∧
    (decode w = .ok .tstart ↔ w &&& 0xFFFFFFFF#32 = 0x00000009#32) ∧
    (decode w = .ok .tstop ↔ w &&& 0xFFFFFFFF#32 = 0x0000000A#32) ∧
    (decode w = .ok .trestart ↔ w &&& 0xFFFFFFFF#32 = 0x0000000B#32) ∧
    (∀ p, decode w = .ok (.createOnce p) ∨ decode w = .ok (.createForever p) ∨
        decode w = .ok (.createN p) → p = w.getLsbD 6) ∧
    (∀ n, decode w = .ok (.delete n) ∨ decode w = .ok (.enable n) ∨
        decode w = .ok (.disable n) ∨ decode w = .ok (.restart n) →
      n = (w.extractLsb' 8 8).toNat)

/-- Every well-formed command is read back from its word, with every operand. -/
def Obligations.DecodeOfEncode : Prop :=
  ∀ i : Instr, i.wf = true → decode (encode i) = .ok i

/-- Every word that decodes is the one word of a well-formed command. -/
def Obligations.EncodeOfDecode : Prop :=
  ∀ (w : Word) (i : Instr), decode w = .ok i → i.wf = true ∧ encode i = w

/-- R66: which words are reserved, and that writing one to `CMD` sets `STATUS` to INVALID and
changes nothing else. -/
def Obligations.ReservedWordOnlySetsStatus : Prop :=
  (∀ w : Word,
    let op := (w.extractLsb' 0 4).toNat
    let kind := (w.extractLsb' 4 2).toNat
    let p := w.getLsbD 6
    let slot := (w.extractLsb' 8 8).toNat
    (∃ e, decode w = .error e) ↔
      (op = 0 ∨ 12 ≤ op) ∨
      (∃ b, 16 ≤ b ∧ b < 32 ∧ w.getLsbD b = true) ∨ w.getLsbD 7 = true ∨
      (op = 1 ∧ (kind = 3 ∨ slot ≠ 0)) ∨
      (2 ≤ op ∧ op ≤ 5 ∧ (kind ≠ 0 ∨ p = true)) ∨
      (6 ≤ op ∧ op ≤ 11 ∧ (kind ≠ 0 ∨ p = true ∨ slot ≠ 0))) ∧
  (∀ (s : State) (w : Word) (e : Reserved) (rest : List Event),
    s.schedule = .write 0x00 .word w :: rest → decode w = .error e →
    step s = .next { s with schedule := rest, status := .invalid })

/-- R67, R46: a write of a command word to `CMD` runs that command, whole, as one transition; nothing
is added around it. -/
def Obligations.StepRunsTheDecodedCommand : Prop :=
  ∀ (s : State) (w : Word) (i : Instr) (rest : List Event),
    s.schedule = .write 0x00 .word w :: rest → decode w = .ok i →
    step s = exec i { s with schedule := rest }

/-! ### The register window (20_memory.md) -/

/-- What a read of each register answers (R41, R25); the block is unchanged and the answer is seen
outside. FLAGS and the DISP registers have statements of their own. -/
def Obligations.RegisterReadAnswers : Prop :=
  ∀ (s : State) (rest : List Event) (off : Nat) (v : Word),
    s.schedule = .read off .word :: rest →
    ((off = 0x00 ∧ v = 0) ∨
      (off = 0x04 ∧ v = (match s.status with | .ok => 0 | .full => 1 | .invalid => 2 | .trigFail => 3)) ∨
      (off = 0x08 ∧ v = s.result) ∨ (off = 0x0C ∧ v = s.args.period) ∨
      (off = 0x10 ∧ v = s.args.count) ∨ (off = 0x14 ∧ v = s.args.cb) ∨
      (off = 0x18 ∧ v = s.args.param) ∨ (off = 0x2C ∧ v = 0)) →
    step s = .next { s with schedule := rest, out := .readData off v :: s.out }

/-- R26: each bit of FLAGS, and what a write of FLAGS does. -/
def Obligations.FlagsRegisterBits : Prop :=
  ∀ (s : State) (rest : List Event),
    (s.schedule = .read 0x28 .word :: rest →
      ∃ v : Word,
        step s = .next { s with schedule := rest, out := .readData 0x28 v :: s.out } ∧
        v.getLsbD 0 = decide (s.engine.phase ≠ .idle) ∧ v.getLsbD 1 = s.engine.tickPend ∧
        v.getLsbD 2 = s.engine.overrun ∧ v.getLsbD 3 = s.disp.valid ∧
        v.getLsbD 4 = s.trig.armed ∧ v.getLsbD 5 = s.trig.run ∧
        ∀ b, 6 ≤ b → v.getLsbD b = false) ∧
    (∀ v : Word, s.schedule = .write 0x28 .word v :: rest →
      step s = .next { s with
        schedule := rest
        engine := { s.engine with overrun := s.engine.overrun && !v.getLsbD 2 } })

/-- R27: the three dispatch registers show the latches, and read 0 while no dispatch is
outstanding. -/
def Obligations.DispatchRegistersShowTheLatches : Prop :=
  ∀ (s : State) (rest : List Event) (off : Nat),
    off = 0x1C ∨ off = 0x20 ∨ off = 0x24 → s.schedule = .read off .word :: rest →
    ∃ v : Word,
      step s = .next { s with schedule := rest, out := .readData off v :: s.out } ∧
      (s.disp.valid = false → v = 0) ∧
      (s.disp.valid = true →
        (off = 0x1C → v.getLsbD 31 = true ∧ v.getLsbD 8 = s.disp.hasParam ∧
          (v.extractLsb' 0 4).toNat = s.disp.slot.val ∧
          ∀ b, 4 ≤ b → b ≠ 8 → b ≠ 31 → v.getLsbD b = false) ∧
        (off = 0x20 → v = s.disp.cb) ∧ (off = 0x24 → v = s.disp.param))

/-- R45: writes to read-only registers and to 0x2C are ignored, reads of `CMD` and of 0x2C give 0. -/
def Obligations.ReadOnlyRegistersIgnoreWrites : Prop :=
  ∀ (s : State) (rest : List Event) (off : Nat),
    (∀ v : Word, off = 0x04 ∨ off = 0x08 ∨ off = 0x1C ∨ off = 0x20 ∨ off = 0x24 ∨ off = 0x2C →
      s.schedule = .write off .word v :: rest → step s = .next { s with schedule := rest }) ∧
    (off = 0x00 ∨ off = 0x2C → s.schedule = .read off .word :: rest →
      step s = .next { s with schedule := rest, out := .readData off 0 :: s.out })

/-- R25: a write of an operand register stores all of it in that register and changes nothing else,
whatever comes next; a read of it that comes next gives back what was written. -/
def Obligations.OperandRegistersReadBack : Prop :=
  ∀ (s : State) (off : Nat) (v : Word) (rest : List Event),
    off = 0x0C ∨ off = 0x10 ∨ off = 0x14 ∨ off = 0x18 →
    s.schedule = .write off .word v :: rest →
    ∃ a : Args,
      a = { period := if off = 0x0C then v else s.args.period
            count := if off = 0x10 then v else s.args.count
            cb := if off = 0x14 then v else s.args.cb
            param := if off = 0x18 then v else s.args.param } ∧
      step s = .next { s with args := a, schedule := rest } ∧
      ∀ more, rest = .read off .word :: more →
        step { s with args := a, schedule := rest } =
          .next { s with args := a, schedule := more, out := .readData off v :: s.out }

/-- R44: a read changes nothing of the block whatever it reads; of the writes other than that of
`CMD`, those of the operand registers only store and that of FLAGS can only clear `overrun`. -/
def Obligations.AccessSideEffects : Prop :=
  ∀ (s t : State) (off : Nat) (width : AccessWidth) (rest : List Event), step s = .next t →
    (s.schedule = .read off width :: rest →
      ∃ v, t = { s with schedule := rest, out := .readData off v :: s.out }) ∧
    (∀ v : Word, s.schedule = .write off width v :: rest → off ≠ 0x00 →
      t = { s with
        schedule := rest, args := t.args,
        engine := { s.engine with overrun := t.engine.overrun } } ∧
      (t.args ≠ s.args → off = 0x0C ∨ off = 0x10 ∨ off = 0x14 ∨ off = 0x18) ∧
      (t.engine.overrun ≠ s.engine.overrun →
        off = 0x28 ∧ v.getLsbD 2 = true ∧ t.engine.overrun = false))

/-- R43: an access that is not a whole aligned word is refused; by R41 and R42 every other read and
write of the window is answered. That an access outside the window is refused too is the model's
choice (log entry 11, after 93_implementation_defined.md V4), as are the names of the refusals:
R41 calls such an access not this block's. -/
def Obligations.OnlyAlignedWordsAreAccepted : Prop :=
  ∀ (s : State) (off : Nat) (width : AccessWidth) (v : Word) (rest : List Event) (e : Event),
    e = .read off width ∨ e = .write off width v → s.schedule = e :: rest →
    ((off % 4 ≠ 0 ∨ width ≠ .word ∨ 0x30 ≤ off) ↔
      step s = .refused .accessWidth ∨ step s = .refused .misaligned ∨
        step s = .refused .outsideWindow) ∧
    (off % 4 = 0 ∧ width = .word ∧ off < 0x30 → ∃ t, step s = .next t)

/-- R41: BASE is a multiple of 4, so the registers stand at word addresses of the bus, each its own
and all inside the 48 bytes from BASE. -/
def Obligations.RegisterBusAddresses : Prop :=
  Config.base % 4 = 0 ∧
  ∀ r : Reg, r.busAddress % 4 = 0 ∧ Config.base ≤ r.busAddress ∧ r.busAddress < Config.base + 48 ∧
    ∀ q : Reg, q.busAddress = r.busAddress → q = r

/-! ### Creates (40_slot_create.md) -/

/-- R80, for the three kinds: the operand check decides first, then capacity; otherwise the lowest
FREE slot takes every operand. In each case nothing else changes. -/
def Obligations.CreateProcedure : Prop :=
  ∀ (k : Kind) (p : Bool) (s : State),
    (¬ s.OperandsLegal k →
      exec (createInstr k p) s = .next { s with result := 0xFFFFFFFF#32, status := .invalid }) ∧
    (s.OperandsLegal k → (∀ i : SlotId, (s.slot i).alloc = true) →
      exec (createInstr k p) s = .next { s with result := 0xFFFFFFFF#32, status := .full }) ∧
    (∀ i : SlotId, s.OperandsLegal k → (s.slot i).alloc = false →
      (∀ j : SlotId, j < i → (s.slot j).alloc = true) →
      exec (createInstr k p) s = .next { s with
        slots := s.slots.set i.val
          { alloc := true, enabled := true, kind := k, period := s.args.period,
            remaining := s.args.period, cb := s.args.cb, hasParam := p, param := s.args.param,
            count := match k with
              | .ntimes => s.args.count
              | .forever => 0xFFFFFFFF#32
              | .once => 1 } i.isLt
        result := BitVec.ofNat 32 i.val
        status := .ok })

/-- R84 item 1: an index freed below every other FREE one is the next to be given out, and no other
slot is touched on the way. -/
def Obligations.FreedIndexIsGivenOutAgain : Prop :=
  ∀ (s t : State) (i : SlotId) (k : Kind) (p : Bool),
    (∀ j : SlotId, j ≤ i → (s.slot j).alloc = true) → s.OperandsLegal k →
    exec (.delete i.val) s = .next t →
    ∃ u, exec (createInstr k p) t = .next u ∧ u.status = .ok ∧ u.result = BitVec.ofNat 32 i.val ∧
      (u.slot i).state = .enabled ∧ ∀ j, j ≠ i → u.slot j = s.slot j

/-! ### Slot control (41_slot_control.md) -/

/-- R90: a control command on an identifier that is not valid changes nothing but `STATUS`. -/
def Obligations.InvalidIdentifierIsNoOp : Prop :=
  ∀ (s : State) (n : Nat), ¬ (∃ i : SlotId, i.val = n ∧ (s.slot i).alloc = true) →
    exec (.delete n) s = .next { s with status := .ok } ∧
    exec (.enable n) s = .next { s with status := .ok } ∧
    exec (.disable n) s = .next { s with status := .ok } ∧
    exec (.restart n) s = .next { s with status := .ok }

/-- R91: `DELETE` of an occupied slot frees it and keeps its other fields; if it is the slot under
dispatch it clears `cur_live`. Nothing else changes. -/
def Obligations.DeleteFreesTheSlot : Prop :=
  ∀ (s : State) (i : SlotId), (s.slot i).alloc = true →
    exec (.delete i.val) s = .next { s with
      slots := s.slots.set i.val { s.slot i with alloc := false, enabled := false } i.isLt
      engine := { s.engine with
        curLive := s.engine.curLive && !decide (s.engine.phase = .waitCb ∧ s.engine.scanIdx = i) }
      status := .ok }

/-- R92: `ENABLE` of an occupied slot sets `enabled` and keeps the countdown; nothing else
changes. -/
def Obligations.EnableSetsEnabledOnly : Prop :=
  ∀ (s : State) (i : SlotId), (s.slot i).alloc = true →
    exec (.enable i.val) s = .next { s with
      slots := s.slots.set i.val { s.slot i with enabled := true } i.isLt, status := .ok }

/-- R93: `DISABLE` of an occupied slot clears `enabled` and keeps its configuration; nothing else
changes. -/
def Obligations.DisableClearsEnabledOnly : Prop :=
  ∀ (s : State) (i : SlotId), (s.slot i).alloc = true →
    exec (.disable i.val) s = .next { s with
      slots := s.slots.set i.val { s.slot i with enabled := false } i.isLt, status := .ok }

/-- R94: `RESTART` of an occupied slot reloads the countdown from the period; nothing else
changes. -/
def Obligations.RestartReloadsOnly : Prop :=
  ∀ (s : State) (i : SlotId), (s.slot i).alloc = true →
    exec (.restart i.val) s = .next { s with
      slots := s.slots.set i.val { s.slot i with remaining := (s.slot i).period } i.isLt
      status := .ok }

/-- R95: the transition table of a slot, every event against every state. -/
def Obligations.SlotStateMachine : Prop :=
  ∀ (s t : State) (i : SlotId), ((s.slot i).enabled = true → (s.slot i).alloc = true) →
    (∀ k p, exec (createInstr k p) s = .next t →
      (t.slot i).state =
        if s.OperandsLegal k ∧ s.IsFirstFree i then .enabled else (s.slot i).state) ∧
    (exec (.delete i.val) s = .next t → (t.slot i).state = .free) ∧
    (exec (.enable i.val) s = .next t →
      (t.slot i).state = if (s.slot i).state = .free then .free else .enabled) ∧
    (exec (.disable i.val) s = .next t →
      (t.slot i).state = if (s.slot i).state = .free then .free else .disabled) ∧
    (exec (.restart i.val) s = .next t → (t.slot i).state = (s.slot i).state) ∧
    (∀ n, n ≠ i.val → exec (.delete n) s = .next t ∨ exec (.enable n) s = .next t ∨
      exec (.disable n) s = .next t ∨ exec (.restart n) s = .next t → t.slot i = s.slot i) ∧
    (s.EngineMoves → step s = .next t → (t.slot i).state = (s.slot i).state) ∧
    (exec .done s = .next t → s.engine.phase = .waitCb → s.engine.scanIdx = i →
      s.engine.curLive = true → (s.slot i).state ≠ .free →
      (t.slot i).state =
        match (s.slot i).kind with
        | .forever => (s.slot i).state
        | .ntimes => if 0 < ((s.slot i).count - 1).toInt then (s.slot i).state else .free
        | .once => .free) ∧
    (s.Resets → step s = .next t → (t.slot i).state = .free)

/-- R92 corner case 1, R106: a run-once slot, or a finite-count slot on its last invocation, is FREE
after its `DONE`, and `ENABLE` of that index changes nothing but `STATUS`. -/
def Obligations.EnableDoesNotReviveARetiredSlot : Prop :=
  ∀ (s t : State), s.engine.phase = .waitCb → s.engine.curLive = true →
    ((s.slot s.engine.scanIdx).kind = .once ∨
      ((s.slot s.engine.scanIdx).kind = .ntimes ∧ (s.slot s.engine.scanIdx).count = 1)) →
    exec .done s = .next t →
    (t.slot s.engine.scanIdx).state = .free ∧
      exec (.enable s.engine.scanIdx.val) t = .next { t with status := .ok }

/-! ### Tick, scan, dispatch, completion (42_tick_scan.md) -/

/-- R100: a tick event latches, or sets `overrun` if a tick is latched already; the command form
writes `STATUS`, the pulse of a running trigger does not. -/
def Obligations.TickLatchesOrOverruns : Prop :=
  ∀ s : State,
    let after := { s.engine with
      tickPend := true, overrun := if s.engine.tickPend then true else s.engine.overrun }
    exec .tick s = .next { s with engine := after, status := .ok } ∧
    ∀ rest, s.schedule = .tick :: rest → s.trig.armed = true → s.trig.run = true →
      step s = .next { s with schedule := rest, engine := after }

/-- R125: no pulse occurs while the trigger is not armed and running. The model answers such a pulse
with a fault, its own choice (log entry 12). -/
def Obligations.PulseNeedsARunningTrigger : Prop :=
  ∀ (s : State) (rest : List Event), s.schedule = .tick :: rest →
    (step s = .fault .tickWithoutTrigger ↔ ¬ (s.trig.armed = true ∧ s.trig.run = true))

/-- R101: the scan starts in the engine's turn iff the block is IDLE and a tick is pending. The turn
passes in IDLE without one (log entry 13). -/
def Obligations.ScanStart : Prop :=
  ∀ (s : State) (rest : List Event), s.engine.phase = .idle →
    (s.schedule = .engine :: rest ∨ (s.schedule = [] ∧ rest = [])) →
    (s.engine.tickPend = true →
      step s = .next { s with
        schedule := rest
        engine := { s.engine with tickPend := false, phase := .scan, scanIdx := 0 } }) ∧
    (s.engine.tickPend = false → step s = .next { s with schedule := rest })

/-- R102, with the advance of R103 and the dispatch of R104: a visit leaves a slot that is not
ENABLED alone, counts an ENABLED one down by one, and fires it at zero. -/
def Obligations.VisitCountsDownAndFires : Prop :=
  ∀ (s : State) (rest : List Event), s.engine.phase = .scan →
    (s.schedule = .engine :: rest ∨ (s.schedule = [] ∧ rest = [])) →
    let i := s.engine.scanIdx
    let x := s.slot i
    let advanced : Engine :=
      if i = 15 then { s.engine with phase := .idle } else { s.engine with scanIdx := i + 1 }
    let counted := s.slots.set i.val { x with remaining := x.remaining - 1 } i.isLt
    (¬ (x.alloc = true ∧ x.enabled = true) →
      step s = .next { s with schedule := rest, engine := advanced }) ∧
    (x.alloc = true → x.enabled = true → x.remaining ≠ 1 →
      step s = .next { s with schedule := rest, slots := counted, engine := advanced }) ∧
    (x.alloc = true → x.enabled = true → x.remaining = 1 →
      step s = .next { s with
        schedule := rest
        slots := counted
        disp := { valid := true, slot := i, cb := x.cb, hasParam := x.hasParam, param := x.param }
        engine := { s.engine with phase := .waitCb, curLive := true }
        out := .dispatch i x.cb x.hasParam x.param :: s.out })

/-- R105 and R106: `DONE` while a dispatch is outstanding applies the post-fire action to the slot
that fired, unless it was deleted since, withdraws the dispatch and advances; otherwise it reports
INVALID and changes nothing else. -/
def Obligations.DoneCompletesTheDispatch : Prop :=
  ∀ s : State,
    let i := s.engine.scanIdx
    let x := s.slot i
    let c := x.count - 1
    let completed : Table → State := fun table => { s with
      slots := table
      disp := { s.disp with valid := false }
      engine := { s.engine with
        curLive := false
        phase := if i = 15 then .idle else .scan
        scanIdx := if i = 15 then i else i + 1 }
      status := .ok }
    let writing : Slot → Table := fun y => s.slots.set i.val y i.isLt
    (s.engine.phase ≠ .waitCb → exec .done s = .next { s with status := .invalid }) ∧
    (s.engine.phase = .waitCb →
      (s.engine.curLive = false → exec .done s = .next (completed s.slots)) ∧
      (s.engine.curLive = true →
        (x.kind = .forever →
          exec .done s = .next (completed (writing { x with remaining := x.period }))) ∧
        (x.kind = .ntimes → 0 < c.toInt →
          exec .done s =
            .next (completed (writing { x with count := c, remaining := x.period }))) ∧
        (x.kind = .ntimes → c.toInt ≤ 0 →
          exec .done s =
            .next (completed (writing { x with count := c, alloc := false, enabled := false }))) ∧
        (x.kind = .once →
          exec .done s =
            .next (completed (writing { x with alloc := false, enabled := false })))))

/-- R107, R101, R103, R71: the only moves of `(phase, scan_idx)` are a scan start, a firing, and an
advance by a visit or by `DONE`; reset aside, nothing else changes them. -/
def Obligations.SequencingMovesInScanOrder : Prop :=
  ∀ s t : State, step s = .next t →
    (t.engine.phase = s.engine.phase ∧ t.engine.scanIdx = s.engine.scanIdx) ∨
    (s.EngineMoves ∧ s.engine.phase = .idle ∧ s.engine.tickPend = true ∧
      t.engine.phase = .scan ∧ t.engine.scanIdx = 0) ∨
    (s.EngineMoves ∧ s.engine.phase = .scan ∧ t.engine.phase = .waitCb ∧
      t.engine.scanIdx = s.engine.scanIdx) ∨
    (((s.EngineMoves ∧ s.engine.phase = .scan) ∨ (s.Issues .done ∧ s.engine.phase = .waitCb)) ∧
      (if s.engine.scanIdx = 15 then t.engine.phase = .idle ∧ t.engine.scanIdx = 15
       else t.engine.phase = .scan ∧ t.engine.scanIdx = s.engine.scanIdx + 1)) ∨
    s.Resets

/-- R104, R136: while a dispatch is outstanding the latches do not follow the slot, `irq_o` stays 1
and the engine waits at the slot that fired, until `DONE` or reset. -/
def Obligations.DispatchIsHeldUntilDone : Prop :=
  ∀ s t : State, s.Inv → s.disp.valid = true → step s = .next t →
    (t.disp = s.disp ∧ t.irqO = true ∧ t.engine.phase = .waitCb ∧
      t.engine.scanIdx = s.engine.scanIdx) ∨
    ((s.Issues .done ∨ s.Resets) ∧ t.irqO = false ∧ t.engine.phase ≠ .waitCb)

/-- R5, R104, R120, R122 to R124: whatever an observer newly sees in a transition has its cause: a
dispatch event is the firing of the visited ENABLED slot with that slot's own callback, an answer is
that of the read, a request is that of the trigger command. Start and restart requests come from an
armed trigger only (no-ops before any arm, 92_eei_decisions.md D22); that start and stop
requests go out inside their commands is the model's reading (log entry 10), that a reset sends none
its choice (log entry 20). -/
def Obligations.OutputsHaveTheirCause : Prop :=
  ∀ s t : State, step s = .next t →
    t.out = s.out ∨
    ∃ o, t.out = o :: s.out ∧
      match o with
      | .dispatch i cb hasParam param =>
        s.EngineMoves ∧ s.engine.phase = .scan ∧ s.engine.scanIdx = i ∧
          (s.slot i).state = .enabled ∧ (s.slot i).remaining = 1 ∧
          cb = (s.slot i).cb ∧ hasParam = (s.slot i).hasParam ∧ param = (s.slot i).param
      | .readData off _ => s.schedule.head? = some (.read off .word)
      | .armRequest period answer =>
        s.Issues .tarm ∧ period = s.args.period ∧ answer = Config.trigOk period
      | .startRequest => s.Issues .tstart ∧ s.trig.armed = true
      | .stopRequest => s.Issues .tstop
      | .restartRequest => s.Issues .trestart ∧ s.trig.armed = true

/-- R106 point 2, R113: after the slot under dispatch was deleted, whatever commands other than
`DONE` follow, the `DONE` of that dispatch leaves the whole slot table alone, and so also a timer
created at the same index meanwhile. -/
def Obligations.DeletedSlotGetsNoPostFire : Prop :=
  ∀ (s t u : State) (cs : List Instr), s.engine.phase = .waitCb →
    (s.slot s.engine.scanIdx).alloc = true →
    exec (.delete s.engine.scanIdx.val) s = .next t → .done ∉ cs → execAll cs t = .next u →
    ∃ v, exec .done u = .next v ∧ v.slots = u.slots ∧ v.irqO = false ∧ v.status = .ok

/-- R114: a quiescent block with no event coming stays as it is. -/
def Obligations.QuiescentBlockStaysPut : Prop :=
  ∀ (n : Nat) (s : State), s.schedule = [] → s.engine.phase = .idle → s.engine.tickPend = false →
    steps n s = .next s

/-- R147: while a callback has not returned and no event comes, the block has no step out of
WAIT_CB, however long it waits. -/
def Obligations.UnansweredDispatchHangs : Prop :=
  ∀ (n : Nat) (s : State), s.schedule = [] → s.engine.phase = .waitCb → steps n s = .next s

/-- R147, R170: of pulses that arrive with no turn of the engine between them one is latched and all
others are lost, leaving `overrun`. -/
def Obligations.OnlyOneTickIsRemembered : Prop :=
  ∀ (n : Nat) (s : State) (rest : List Event), s.trig.armed = true → s.trig.run = true →
    s.schedule = List.replicate (n + 1) .tick ++ rest →
    steps (n + 1) s = .next { s with
      schedule := rest
      engine := { s.engine with
        tickPend := true
        overrun := s.engine.overrun || s.engine.tickPend || decide (0 < n) } }

/-- R107: left alone, a scan has ended or stands at a dispatch after at most one visit for each index
still ahead. -/
def Obligations.ScanEndsOrDispatches : Prop :=
  ∀ s : State, s.schedule = [] → s.engine.phase = .scan →
    ∃ n t, n ≤ 16 - s.engine.scanIdx.val ∧ steps n s = .next t ∧
      ((t.engine.phase = .idle ∧ t.engine.scanIdx = 15) ∨
        (t.engine.phase = .waitCb ∧ s.engine.scanIdx ≤ t.engine.scanIdx))

/-- R110: with empty callbacks one scan makes of every slot what the source's loop makes of it, and
shows the dispatch events of the slots due, in ascending index order; operand registers, `RESULT`,
the trigger and `overrun` are unchanged. -/
def Obligations.ScanIsTheSourceLoop : Prop :=
  ∀ s : State, s.schedule = [] → s.engine.phase = .idle → s.engine.tickPend = true →
    ∃ t, emptyTick 33 s = .next t ∧
      (∀ i, t.slot i = (s.slot i).afterTick) ∧
      t.out = s.dueNow.reverse ++ s.out ∧
      t.engine.phase = .idle ∧ t.engine.tickPend = false ∧
      t.engine.overrun = s.engine.overrun ∧
      t.status = (if s.dueNow = [] then s.status else .ok) ∧
      t.disp.valid = (if s.dueNow = [] then s.disp.valid else false) ∧
      t = { s with slots := t.slots, engine := t.engine, disp := t.disp, status := t.status,
                   out := t.out }

/-- R111: a slot that starts with its full period is dispatched `k / period` times in `k` ticks with
empty callbacks, at most `count` times for NTIMES and at most once for ONCE, whatever the other
slots hold. -/
def Obligations.DispatchFidelity : Prop :=
  ∀ (s : State) (i : SlotId) (k : Nat), s.schedule = [] → s.Quiescent →
    (s.slot i).state = .enabled → (s.slot i).period ≠ 0 →
    (s.slot i).remaining = (s.slot i).period →
    ((s.slot i).kind = .ntimes → 0 < (s.slot i).count.toInt) →
    ∃ t, ticksAndWait k s = .next t ∧
      t.dispatchCount i = s.dispatchCount i +
        match (s.slot i).kind with
        | .forever => k / (s.slot i).period.toNat
        | .ntimes => min (s.slot i).count.toNat (k / (s.slot i).period.toNat)
        | .once => min 1 (k / (s.slot i).period.toNat)

/-- R102, R92, R94: from a quiescent block an ENABLED slot with countdown `r` is first dispatched in
the `r`-th tick, whether it was created, re-enabled or restarted to that countdown. -/
def Obligations.FirstFiringAfterItsCountdown : Prop :=
  ∀ (s : State) (i : SlotId) (k : Nat), s.schedule = [] → s.Quiescent →
    (s.slot i).state = .enabled → (s.slot i).remaining ≠ 0 → k ≤ (s.slot i).remaining.toNat →
    ∃ t, ticksAndWait k s = .next t ∧
      t.dispatchCount i =
        s.dispatchCount i + (if k = (s.slot i).remaining.toNat then 1 else 0)

/-- R92, R93: a slot disabled in a quiescent block keeps its countdown through any number of ticks
with empty callbacks, is not dispatched, and is enabled again with that countdown. -/
def Obligations.DisabledSlotKeepsItsPhase : Prop :=
  ∀ (s t : State) (i : SlotId) (k : Nat), s.schedule = [] → s.Quiescent →
    (s.slot i).alloc = true → exec (.disable i.val) s = .next t →
    ∃ u v, ticksAndWait k t = .next u ∧ u.dispatchCount i = s.dispatchCount i ∧
      exec (.enable i.val) u = .next v ∧ v.slot i = { s.slot i with enabled := true }

/-! ### Trigger control (43_trigger_control.md) -/

/-- R121: `TARM` asks the trigger, and on its yes arms and starts it with the period of
`ARG_PERIOD`; on its no, and always for the period 0, the shadow is unchanged. -/
def Obligations.TarmArmsAndStarts : Prop :=
  ∀ s : State,
    let asked : Output := .armRequest s.args.period (Config.trigOk s.args.period)
    exec .tarm s = .next
      (if Config.trigOk s.args.period = true then
        { s with
          trig := { armed := true, run := true, period := s.args.period }
          out := asked :: s.out, status := .ok }
      else { s with out := asked :: s.out, status := .trigFail }) ∧
    (s.args.period = 0 → Config.trigOk s.args.period = false)

/-- R122: `TSTART` lets an armed trigger run; it is a no-op but for `STATUS` if the trigger was never
armed (92_eei_decisions.md D22). That the start request goes out inside the command is the model's
reading of R120 (log entry 10). -/
def Obligations.TstartResumesTheTrigger : Prop :=
  ∀ s : State,
    (s.trig.armed = true →
      exec .tstart s = .next { s with
        trig := { s.trig with run := true }, out := .startRequest :: s.out, status := .ok }) ∧
    (s.trig.armed = false → exec .tstart s = .next { s with status := .ok })

/-- R123: `TSTOP` stops the trigger; it clears no pending tick, ends no scan, withdraws no dispatch
and changes no slot. That it always shows a stop request, also to a trigger never armed, is the
model's reading and not R123's (DEDUCED, log entry 10). -/
def Obligations.TstopOnlyStopsTheTrigger : Prop :=
  ∀ s : State, exec .tstop s = .next { s with
    trig := { s.trig with run := false }, out := .stopRequest :: s.out, status := .ok }

/-- R124: `TRESTART` lets an armed trigger run and sends it a restart request; it is a no-op but for
`STATUS`, with no request, if the trigger was never armed (92_eei_decisions.md D22). -/
def Obligations.TrestartRestartsTheTrigger : Prop :=
  ∀ s : State,
    (s.trig.armed = true →
      exec .trestart s = .next { s with
        trig := { s.trig with run := true }, out := .restartRequest :: s.out, status := .ok }) ∧
    (s.trig.armed = false → exec .trestart s = .next { s with status := .ok })

/-! ### Whole-machine rules -/

/-- R131 and R130: every command completes in one transition and leaves the code of the table. -/
def Obligations.EveryCommandCompletesWithItsCode : Prop :=
  (∀ (i : Instr) (s : State), ∃ t, exec i s = .next t ∧ t.status = codeLeftBy i s) ∧
  (∀ (s t : State) (w : Word) (e : Reserved) (rest : List Event),
    s.schedule = cmdWrite w :: rest → decode w = .error e → step s = .next t →
    t.status = .invalid)

/-- R25, D36: `STATUS` is written by `CMD` writes only and `RESULT` by creates only, reset aside. -/
def Obligations.StatusAndResultWriters : Prop :=
  ∀ s t : State, step s = .next t → ¬ s.Resets →
    (t.status ≠ s.status → ∃ w, s.schedule.head? = some (cmdWrite w)) ∧
    (t.result ≠ s.result → ∃ k p, s.Issues (createInstr k p))

/-- R25, R64: each operand register changes by a write of its own offset only, to the value written,
reset aside: no command modifies one. -/
def Obligations.OperandRegisterWriters : Prop :=
  ∀ s t : State, step s = .next t → ¬ s.Resets →
    (t.args.period ≠ s.args.period →
      s.schedule.head? = some (.write 0x0C .word t.args.period)) ∧
    (t.args.count ≠ s.args.count →
      s.schedule.head? = some (.write 0x10 .word t.args.count)) ∧
    (t.args.cb ≠ s.args.cb →
      s.schedule.head? = some (.write 0x14 .word t.args.cb)) ∧
    (t.args.param ≠ s.args.param →
      s.schedule.head? = some (.write 0x18 .word t.args.param))

/-- R21, R10: which slot a transition other than a reset can write: a create the first free one, a
control command the one its identifier names, a visit and the `DONE` of an outstanding dispatch
`slot[scan_idx]`, and nothing else any. So at most one slot changes. -/
def Obligations.SlotTableWriters : Prop :=
  ∀ s t : State, step s = .next t → ¬ s.Resets →
    (∀ j, t.slot j ≠ s.slot j →
      (∃ k p, s.Issues (createInstr k p) ∧ s.firstFree = some j) ∨
      (∃ n, (s.Issues (.delete n) ∨ s.Issues (.enable n) ∨ s.Issues (.disable n) ∨
        s.Issues (.restart n)) ∧ s.validSlot n = some j) ∨
      (s.EngineMoves ∧ s.engine.phase = .scan ∧ s.engine.scanIdx = j) ∨
      (s.Issues .done ∧ s.engine.phase = .waitCb ∧ s.engine.scanIdx = j)) ∧
    (∀ i j, t.slot i ≠ s.slot i → t.slot j ≠ s.slot j → i = j)

/-- R13, R15, R18: a slot that is occupied before and after a transition keeps its kind, period,
callback and parameter. -/
def Obligations.ConfigurationIsFixedAtCreation : Prop :=
  ∀ (s t : State) (i : SlotId), step s = .next t →
    (s.slot i).alloc = true → (t.slot i).alloc = true →
    (t.slot i).kind = (s.slot i).kind ∧ (t.slot i).period = (s.slot i).period ∧
    (t.slot i).cb = (s.slot i).cb ∧ (t.slot i).hasParam = (s.slot i).hasParam ∧
    (t.slot i).param = (s.slot i).param

/-- R14, R16: how the countdown and the count of a slot occupied before and after a transition can
change: the countdown by one at the visit of the ENABLED slot, or to the period by `RESTART` or
`DONE`; the count by one at the `DONE` of a firing of a NTIMES slot. -/
def Obligations.CountdownAndCountWriters : Prop :=
  ∀ (s t : State) (i : SlotId), step s = .next t →
    (s.slot i).alloc = true → (t.slot i).alloc = true →
    ((t.slot i).remaining = (s.slot i).remaining ∨
      (s.EngineMoves ∧ s.engine.phase = .scan ∧ s.engine.scanIdx = i ∧
        (s.slot i).enabled = true ∧ (t.slot i).remaining = (s.slot i).remaining - 1) ∨
      ((s.Issues (.restart i.val) ∨
          (s.Issues .done ∧ s.engine.phase = .waitCb ∧ s.engine.scanIdx = i)) ∧
        (t.slot i).remaining = (s.slot i).period)) ∧
    ((t.slot i).count = (s.slot i).count ∨
      (s.Issues .done ∧ s.engine.phase = .waitCb ∧ s.engine.scanIdx = i ∧
        (s.slot i).kind = .ntimes ∧ (t.slot i).count = (s.slot i).count - 1))

/-- R28: the trigger shadow is written by the four trigger commands only, reset aside. -/
def Obligations.TriggerShadowWriters : Prop :=
  ∀ s t : State, step s = .next t → ¬ s.Resets → t.trig ≠ s.trig →
    s.Issues .tarm ∨ s.Issues .tstart ∨ s.Issues .tstop ∨ s.Issues .trestart

/-- R19, V1, V2: two states that differ only in dead fields of FREE slots, in `scan_idx` while IDLE,
in the latches while no dispatch is outstanding and in `trig_period` while unarmed have the same
outcome and the same outputs, and stay so. -/
def Obligations.DeadFieldsAreUnobservable : Prop :=
  ∀ s t : State, s.Inv → t.Inv → s.SameLive t → sameOutcome State.SameLive (step s) (step t)

/-- R29: every transition keeps the invariants. -/
def Obligations.StepKeepsTheInvariants : Prop :=
  ∀ s t : State, s.Inv → step s = .next t → t.Inv

/-- R29: the invariants hold right after reset. -/
def Obligations.ResetMeetsTheInvariants : Prop :=
  State.reset.Inv

/-- R171, R125, R114, R147: in a run where the engine and a trigger that stays armed and running are
weakly fair and every callback returns, scans keep starting. -/
def Obligations.RunningTriggerKeepsScanning : Prop :=
  ∀ (r : Nat → State) (env : Nat → List Event), IsRun r env → EngineFair r env →
    TriggerFair r env → CallbacksReturn r →
    (∀ n, (r n).trig.armed = true ∧ (r n).trig.run = true) →
    ∀ n, ∃ m, n ≤ m ∧ ScanStartsAt r m

/-! ### Reset (70_reset_and_hazards.md) -/

/-- R30: the values that the spec gives for the state after reset. What R30 leaves unspecified is not
stated here. -/
def Obligations.ResetValues : Prop :=
  (∀ i, (State.reset.slot i).alloc = false ∧ (State.reset.slot i).enabled = false) ∧
  State.reset.engine.phase = .idle ∧ State.reset.engine.tickPend = false ∧
  State.reset.engine.overrun = false ∧ State.reset.engine.curLive = false ∧
  State.reset.irqO = false ∧ State.reset.args = ⟨0, 0, 0, 0⟩ ∧ State.reset.status = .ok ∧
  State.reset.result = 0xFFFFFFFF#32 ∧ State.reset.trig.armed = false ∧
  State.reset.trig.run = false

/-- R160: a reset in any state, in the midst of a scan or of a callback too, gives every piece of
state its value of R30, and a `DONE` that arrives afterwards reports INVALID.
That the reset shows no output, so no request to the trigger, is the model's choice (log entry 20). -/
def Obligations.ResetFromAnyState : Prop :=
  ∀ (s : State) (rest : List Event), s.schedule = .rst :: rest →
    ∃ t, step s = .next t ∧
      (∀ i, (t.slot i).alloc = false ∧ (t.slot i).enabled = false) ∧
      t.engine.phase = .idle ∧ t.engine.tickPend = false ∧ t.engine.overrun = false ∧
      t.engine.curLive = false ∧ t.irqO = false ∧ t.args = ⟨0, 0, 0, 0⟩ ∧ t.status = .ok ∧
      t.result = 0xFFFFFFFF#32 ∧ t.trig.armed = false ∧ t.trig.run = false ∧
      t.schedule = rest ∧ t.out = s.out ∧
      exec .done t = .next { t with status := .invalid }

/-- R161: nothing of the block survives a reset: two states that are reset alike (same events still
to come, same things seen, same draw of free values) are the same afterwards. -/
def Obligations.NothingSurvivesReset : Prop :=
  ∀ s t : State, s.Resets → t.schedule = s.schedule → t.out = s.out → t.resets = s.resets →
    step t = step s
end

