-- ==== Sys2Proof/Laws/Decode.lean ====
section
/-! SUPPORT. The fields of a command word as arithmetic on the word's number, and of the words the encoder writes. -/

namespace Sys2Proof

theorem slice_eq (w : Word) (hi lo : Nat) :
    slice w hi lo = w.toNat / 2 ^ lo % 2 ^ (hi - lo + 1) := by
  simp [slice, Nat.shiftRight_eq_div_pow]

theorem fieldOp_eq (w : Word) : fieldOp w = w.toNat % 16 := by
  simp [fieldOp, slice_eq]

theorem fieldKind_eq (w : Word) : fieldKind w = w.toNat / 16 % 4 := by
  simp [fieldKind, slice_eq]

theorem fieldP_eq (w : Word) : fieldP w = decide (w.toNat / 64 % 2 = 1) := by
  simp [fieldP, BitVec.getLsbD, Nat.testBit_eq_decide_div_mod_eq]

theorem fieldBit7_eq (w : Word) : fieldBit7 w = decide (w.toNat / 128 % 2 = 1) := by
  simp [fieldBit7, BitVec.getLsbD, Nat.testBit_eq_decide_div_mod_eq]

theorem fieldSlot_eq (w : Word) : fieldSlot w = w.toNat / 256 % 256 := by
  simp [fieldSlot, slice_eq]

theorem fieldHigh_eq (w : Word) : fieldHigh w = w.toNat / 65536 := by
  have := w.isLt
  simp only [fieldHigh, slice_eq]
  omega

/-- A word is the sum of its fields (30_encoding.md R60). -/
theorem toNat_eq_fields (w : Word) :
    w.toNat = fieldOp w + 16 * fieldKind w + 64 * (fieldP w).toNat + 128 * (fieldBit7 w).toNat +
      256 * fieldSlot w + 65536 * fieldHigh w := by
  rw [fieldOp_eq, fieldKind_eq, fieldP_eq, fieldBit7_eq, fieldSlot_eq, fieldHigh_eq]
  have hb : ∀ n : Nat, (decide (n % 2 = 1)).toNat = n % 2 := by
    intro n
    rcases Nat.mod_two_eq_zero_or_one n with h | h <;> simp [h]
  rw [hb, hb]
  omega

theorem slotFieldFits_lt {slot : Nat} (h : slotFieldFits slot = true) : slot < 256 := by
  simpa [slotFieldFits] using h

section WordOf

variable {op kind slot : Nat} {p : Bool}

/-- The number of a word the encoder writes, where every field fits. -/
theorem toNat_wordOf (hop : op < 16) (hkind : kind < 4) (hslot : slot < 256) :
    (wordOf op kind p slot).toNat = op + 16 * kind + 64 * p.toNat + 256 * slot := by
  have := p.toNat_lt
  simp only [wordOf, BitVec.toNat_ofNat]
  omega

theorem fieldOp_wordOf (hop : op < 16) (hkind : kind < 4) (hslot : slot < 256) :
    fieldOp (wordOf op kind p slot) = op := by
  rw [fieldOp_eq, toNat_wordOf hop hkind hslot]; omega

theorem fieldKind_wordOf (hop : op < 16) (hkind : kind < 4) (hslot : slot < 256) :
    fieldKind (wordOf op kind p slot) = kind := by
  rw [fieldKind_eq, toNat_wordOf hop hkind hslot]; omega

theorem fieldP_wordOf (hop : op < 16) (hkind : kind < 4) (hslot : slot < 256) :
    fieldP (wordOf op kind p slot) = p := by
  rw [fieldP_eq, toNat_wordOf hop hkind hslot]
  cases p <;> simp <;> omega

theorem fieldSlot_wordOf (hop : op < 16) (hkind : kind < 4) (hslot : slot < 256) :
    fieldSlot (wordOf op kind p slot) = slot := by
  have := p.toNat_lt
  rw [fieldSlot_eq, toNat_wordOf hop hkind hslot]; omega

/-- The encoder leaves bits [31:16] and [7] clear. -/
theorem wordOf_reserved_bits (hop : op < 16) (hkind : kind < 4) (hslot : slot < 256) :
    fieldHigh (wordOf op kind p slot) = 0 ∧ fieldBit7 (wordOf op kind p slot) = false := by
  have := p.toNat_lt
  rw [fieldHigh_eq, fieldBit7_eq, toNat_wordOf hop hkind hslot]
  refine ⟨by omega, ?_⟩
  simp only [decide_eq_false_iff_not]
  omega

end WordOf

end Sys2Proof
end

