-- ==== Sys2Proof/Laws/State.lean ====
section
/-! SUPPORT. One lemma per field per update of the state, and what a read of the slot table gives after a write. -/

namespace Sys2Proof.Machine

section Updates

variable (s : State)

/-! writing a slot -/

@[simp] theorem State.setSlot_slots (i : SlotId) (x : Slot) : (s.setSlot i x).slots = s.slots.set i.val x i.isLt := rfl
@[simp] theorem State.setSlot_engine (i : SlotId) (x : Slot) : (s.setSlot i x).engine = s.engine := rfl
@[simp] theorem State.setSlot_disp (i : SlotId) (x : Slot) : (s.setSlot i x).disp = s.disp := rfl
@[simp] theorem State.setSlot_args (i : SlotId) (x : Slot) : (s.setSlot i x).args = s.args := rfl
@[simp] theorem State.setSlot_status (i : SlotId) (x : Slot) : (s.setSlot i x).status = s.status := rfl
@[simp] theorem State.setSlot_result (i : SlotId) (x : Slot) : (s.setSlot i x).result = s.result := rfl
@[simp] theorem State.setSlot_trig (i : SlotId) (x : Slot) : (s.setSlot i x).trig = s.trig := rfl
@[simp] theorem State.setSlot_schedule (i : SlotId) (x : Slot) : (s.setSlot i x).schedule = s.schedule := rfl
@[simp] theorem State.setSlot_out (i : SlotId) (x : Slot) : (s.setSlot i x).out = s.out := rfl
@[simp] theorem State.setSlot_resets (i : SlotId) (x : Slot) : (s.setSlot i x).resets = s.resets := rfl

/-! writing STATUS -/

@[simp] theorem State.setStatus_slots (c : ResultCode) : (s.setStatus c).slots = s.slots := rfl
@[simp] theorem State.setStatus_engine (c : ResultCode) : (s.setStatus c).engine = s.engine := rfl
@[simp] theorem State.setStatus_disp (c : ResultCode) : (s.setStatus c).disp = s.disp := rfl
@[simp] theorem State.setStatus_args (c : ResultCode) : (s.setStatus c).args = s.args := rfl
@[simp] theorem State.setStatus_status (c : ResultCode) : (s.setStatus c).status = c := rfl
@[simp] theorem State.setStatus_result (c : ResultCode) : (s.setStatus c).result = s.result := rfl
@[simp] theorem State.setStatus_trig (c : ResultCode) : (s.setStatus c).trig = s.trig := rfl
@[simp] theorem State.setStatus_schedule (c : ResultCode) : (s.setStatus c).schedule = s.schedule := rfl
@[simp] theorem State.setStatus_out (c : ResultCode) : (s.setStatus c).out = s.out := rfl
@[simp] theorem State.setStatus_resets (c : ResultCode) : (s.setStatus c).resets = s.resets := rfl
@[simp] theorem State.setStatus_slot (c : ResultCode) (j : SlotId) : (s.setStatus c).slot j = s.slot j := rfl

/-! writing RESULT -/

@[simp] theorem State.setResult_slots (v : Word) : (s.setResult v).slots = s.slots := rfl
@[simp] theorem State.setResult_engine (v : Word) : (s.setResult v).engine = s.engine := rfl
@[simp] theorem State.setResult_disp (v : Word) : (s.setResult v).disp = s.disp := rfl
@[simp] theorem State.setResult_args (v : Word) : (s.setResult v).args = s.args := rfl
@[simp] theorem State.setResult_status (v : Word) : (s.setResult v).status = s.status := rfl
@[simp] theorem State.setResult_result (v : Word) : (s.setResult v).result = v := rfl
@[simp] theorem State.setResult_trig (v : Word) : (s.setResult v).trig = s.trig := rfl
@[simp] theorem State.setResult_schedule (v : Word) : (s.setResult v).schedule = s.schedule := rfl
@[simp] theorem State.setResult_out (v : Word) : (s.setResult v).out = s.out := rfl
@[simp] theorem State.setResult_resets (v : Word) : (s.setResult v).resets = s.resets := rfl
@[simp] theorem State.setResult_slot (v : Word) (j : SlotId) : (s.setResult v).slot j = s.slot j := rfl

/-! showing an output -/

@[simp] theorem State.emit_slots (o : Output) : (s.emit o).slots = s.slots := rfl
@[simp] theorem State.emit_engine (o : Output) : (s.emit o).engine = s.engine := rfl
@[simp] theorem State.emit_disp (o : Output) : (s.emit o).disp = s.disp := rfl
@[simp] theorem State.emit_args (o : Output) : (s.emit o).args = s.args := rfl
@[simp] theorem State.emit_status (o : Output) : (s.emit o).status = s.status := rfl
@[simp] theorem State.emit_result (o : Output) : (s.emit o).result = s.result := rfl
@[simp] theorem State.emit_trig (o : Output) : (s.emit o).trig = s.trig := rfl
@[simp] theorem State.emit_schedule (o : Output) : (s.emit o).schedule = s.schedule := rfl
@[simp] theorem State.emit_out (o : Output) : (s.emit o).out = o :: s.out := rfl
@[simp] theorem State.emit_resets (o : Output) : (s.emit o).resets = s.resets := rfl
@[simp] theorem State.emit_slot (o : Output) (j : SlotId) : (s.emit o).slot j = s.slot j := rfl

/-! writing the engine's state -/

@[simp] theorem State.setEngine_slots (e : Engine) : (s.setEngine e).slots = s.slots := rfl
@[simp] theorem State.setEngine_engine (e : Engine) : (s.setEngine e).engine = e := rfl
@[simp] theorem State.setEngine_disp (e : Engine) : (s.setEngine e).disp = s.disp := rfl
@[simp] theorem State.setEngine_args (e : Engine) : (s.setEngine e).args = s.args := rfl
@[simp] theorem State.setEngine_status (e : Engine) : (s.setEngine e).status = s.status := rfl
@[simp] theorem State.setEngine_result (e : Engine) : (s.setEngine e).result = s.result := rfl
@[simp] theorem State.setEngine_trig (e : Engine) : (s.setEngine e).trig = s.trig := rfl
@[simp] theorem State.setEngine_schedule (e : Engine) : (s.setEngine e).schedule = s.schedule := rfl
@[simp] theorem State.setEngine_out (e : Engine) : (s.setEngine e).out = s.out := rfl
@[simp] theorem State.setEngine_resets (e : Engine) : (s.setEngine e).resets = s.resets := rfl
@[simp] theorem State.setEngine_slot (e : Engine) (j : SlotId) : (s.setEngine e).slot j = s.slot j := rfl

/-! writing the trigger shadow -/

@[simp] theorem State.setTrig_slots (t : Trigger) : (s.setTrig t).slots = s.slots := rfl
@[simp] theorem State.setTrig_engine (t : Trigger) : (s.setTrig t).engine = s.engine := rfl
@[simp] theorem State.setTrig_disp (t : Trigger) : (s.setTrig t).disp = s.disp := rfl
@[simp] theorem State.setTrig_args (t : Trigger) : (s.setTrig t).args = s.args := rfl
@[simp] theorem State.setTrig_status (t : Trigger) : (s.setTrig t).status = s.status := rfl
@[simp] theorem State.setTrig_result (t : Trigger) : (s.setTrig t).result = s.result := rfl
@[simp] theorem State.setTrig_trig (t : Trigger) : (s.setTrig t).trig = t := rfl
@[simp] theorem State.setTrig_schedule (t : Trigger) : (s.setTrig t).schedule = s.schedule := rfl
@[simp] theorem State.setTrig_out (t : Trigger) : (s.setTrig t).out = s.out := rfl
@[simp] theorem State.setTrig_resets (t : Trigger) : (s.setTrig t).resets = s.resets := rfl
@[simp] theorem State.setTrig_slot (t : Trigger) (j : SlotId) : (s.setTrig t).slot j = s.slot j := rfl

end Updates

/-! ### Reading a slot after writing one -/

theorem State.slot_eq (s : State) (i : SlotId) : s.slot i = s.slots[i.val] := rfl

@[simp] theorem State.setSlot_slot_self (s : State) (i : SlotId) (x : Slot) :
    (s.setSlot i x).slot i = x := by
  simp [State.slot_eq]

@[simp] theorem State.setSlot_slot_of_ne (s : State) {i j : SlotId} (x : Slot) (h : j ≠ i) :
    (s.setSlot i x).slot j = s.slot j := by
  have : i.val ≠ j.val := fun e => h (Fin.ext e.symm)
  simp [State.slot_eq, this]

theorem State.setSlot_slot (s : State) (i j : SlotId) (x : Slot) :
    (s.setSlot i x).slot j = if j = i then x else s.slot j := by
  split
  · next h => subst h; simp
  · next h => simp [h]

/-- Two tables that read alike are equal. -/
theorem State.slots_ext {s t : State} (h : ∀ i, s.slot i = t.slot i) : s.slots = t.slots :=
  Vector.ext fun i hi => h ⟨i, hi⟩

/-- Writing back what a slot holds changes nothing. -/
@[simp] theorem State.setSlot_slot_same (s : State) (i : SlotId) : s.setSlot i (s.slot i) = s := by
  have h : (s.setSlot i (s.slot i)).slots = s.slots :=
    State.slots_ext fun j => by rw [State.setSlot_slot]; split <;> simp_all
  cases s
  simpa [State.setSlot] using h

@[simp] theorem State.reset_slot (i : SlotId) : State.reset.slot i = Slot.reset := by
  simp [State.slot_eq, State.reset]

@[simp] theorem State.resetBlock_slot (s : State) (i : SlotId) :
    s.resetBlock.slot i = deadSlot s.resets i := by
  simp [State.slot_eq, State.resetBlock]

end Sys2Proof.Machine
end

