-- ==== Sys2Proof/Laws/Ops.lean ====
section
/-! SUPPORT. One lemma per shared operation that says everything it can do. -/

namespace Sys2Proof.Machine

/-! ### Which slot an operation works on -/

/-- `first_free()` answers the least FREE index (40_slot_create.md R80). -/
theorem State.firstFree_eq_some {s : State} {i : SlotId} :
    s.firstFree = some i ↔ s.IsFirstFree i := by
  rw [State.firstFree, List.find?_eq_some_iff_getElem]
  constructor
  · rintro ⟨hi, k, hk, rfl, hlt⟩
    refine ⟨by simpa using hi, fun j hj => ?_⟩
    have hj' : j.val < k := by simpa [Fin.lt_def] using hj
    simpa using hlt j.val hj'
  · rintro ⟨hi, hlt⟩
    refine ⟨by simpa using hi, i.val, by simp, by simp, fun j hj => ?_⟩
    simpa using hlt ⟨j, by omega⟩ (by simpa [Fin.lt_def] using hj)

/-- `first_free()` answers none exactly on a full table (40_slot_create.md R80). -/
theorem State.firstFree_eq_none {s : State} : s.firstFree = none ↔ s.TableFull := by
  simp [State.firstFree, List.find?_eq_none]

/-- A valid identifier names an occupied slot (41_slot_control.md R90). -/
theorem State.validSlot_eq_some {s : State} {n : Nat} {i : SlotId} :
    s.validSlot n = some i ↔ i.val = n ∧ (s.slot i).alloc = true := by
  unfold State.validSlot
  split
  · next h =>
    split
    · next ha =>
      simp only [Option.some.injEq]
      constructor
      · rintro rfl; exact ⟨rfl, ha⟩
      · rintro ⟨rfl, -⟩; rfl
    · next ha =>
      simp only [reduceCtorEq, false_iff, not_and]
      rintro rfl
      exact ha
  · next h =>
    simp only [reduceCtorEq, false_iff, not_and]
    rintro rfl
    exact absurd i.isLt h

theorem State.validSlot_val {s : State} {i : SlotId} (h : (s.slot i).alloc = true) :
    s.validSlot i.val = some i :=
  State.validSlot_eq_some.2 ⟨rfl, h⟩

theorem State.validSlot_eq_none {s : State} {n : Nat} : s.validSlot n = none ↔ ¬ s.ValidId n := by
  constructor
  · rintro h ⟨i, rfl, hi⟩
    rw [State.validSlot_val hi] at h
    cases h
  · intro h
    cases hv : s.validSlot n with
    | none => rfl
    | some i => exact absurd ⟨i, State.validSlot_eq_some.1 hv⟩ h

/-- What a control command does (41_slot_control.md R90): its effect on a valid identifier, nothing
otherwise, and OK either way. -/
theorem State.onValidSlot_cases (s : State) (n : Nat) (f : SlotId → State → State) :
    (∃ i : SlotId, i.val = n ∧ (s.slot i).alloc = true ∧
      s.onValidSlot n f = (f i s).setStatus .ok) ∨
    (¬ s.ValidId n ∧ s.onValidSlot n f = s.setStatus .ok) := by
  unfold State.onValidSlot
  cases hv : s.validSlot n with
  | some i =>
    obtain ⟨rfl, ha⟩ := State.validSlot_eq_some.1 hv
    exact .inl ⟨i, rfl, ha, rfl⟩
  | none => exact .inr ⟨State.validSlot_eq_none.1 hv, rfl⟩

/-! ### Create, tick, advance, dispatch and its return -/

theorem createOperandsOk_iff {k : Kind} {a : Args} :
    createOperandsOk k a = true ↔ a.period ≠ 0 ∧ (k = .ntimes → 0 < a.count.toInt) := by
  cases k <;> simp [createOperandsOk]

/-- The three ways a create ends (40_slot_create.md R80). -/
theorem State.create_cases (s : State) (k : Kind) (p : Bool) :
    (createOperandsOk k s.args = false ∧ s.create k p = s.finishCreate noSlot .invalid) ∨
    (createOperandsOk k s.args = true ∧ s.TableFull ∧
      s.create k p = s.finishCreate noSlot .full) ∨
    (∃ i, createOperandsOk k s.args = true ∧ s.IsFirstFree i ∧
      s.create k p =
        (s.setSlot i (createdSlot k p s.args)).finishCreate (BitVec.ofNat 32 i.val) .ok) := by
  unfold State.create
  cases hok : createOperandsOk k s.args with
  | false => exact .inl ⟨rfl, by simp⟩
  | true =>
    cases hf : s.firstFree with
    | none => exact .inr (.inl ⟨rfl, State.firstFree_eq_none.1 hf, by simp⟩)
    | some i => exact .inr (.inr ⟨i, rfl, State.firstFree_eq_some.1 hf, by simp⟩)

/-- A tick event touches the latch and the overrun bit only (42_tick_scan.md R100). -/
theorem State.tickEvent_eq (s : State) :
    s.tickEvent = s.setEngine { s.engine with
      tickPend := true, overrun := s.engine.overrun || s.engine.tickPend } := by
  unfold State.tickEvent
  split <;> simp_all [State.setEngine]

/-- Where an advance leads (42_tick_scan.md R103). -/
theorem Engine.advance_cases (e : Engine) :
    (e.scanIdx = 15 ∧ e.advance = { e with phase := .idle }) ∨
    (e.scanIdx ≠ 15 ∧ e.advance = { e with phase := .scan, scanIdx := e.scanIdx + 1 }) := by
  unfold Engine.advance
  split
  · next h => exact .inl ⟨h, rfl⟩
  · next h => exact .inr ⟨h, rfl⟩

@[simp] theorem Engine.advance_tickPend (e : Engine) : e.advance.tickPend = e.tickPend := by
  rcases e.advance_cases with ⟨-, h⟩ | ⟨-, h⟩ <;> rw [h]

@[simp] theorem Engine.advance_overrun (e : Engine) : e.advance.overrun = e.overrun := by
  rcases e.advance_cases with ⟨-, h⟩ | ⟨-, h⟩ <;> rw [h]

@[simp] theorem Engine.advance_curLive (e : Engine) : e.advance.curLive = e.curLive := by
  rcases e.advance_cases with ⟨-, h⟩ | ⟨-, h⟩ <;> rw [h]

/-- An advance never leaves the engine waiting for a callback. -/
theorem Engine.advance_phase_ne (e : Engine) : e.advance.phase ≠ .waitCb := by
  rcases e.advance_cases with ⟨-, h⟩ | ⟨-, h⟩ <;> simp [h]

/-- The three things a visit can come to (42_tick_scan.md R102). -/
theorem State.visit_cases (s : State) :
    ((s.slot s.engine.scanIdx).live = false ∧ s.visit = s.setEngine s.engine.advance) ∨
    ((s.slot s.engine.scanIdx).live = true ∧ (s.slot s.engine.scanIdx).remaining - 1 ≠ 0 ∧
      s.visit = (s.setSlot s.engine.scanIdx (s.slot s.engine.scanIdx).countDown).setEngine
        s.engine.advance) ∨
    ((s.slot s.engine.scanIdx).live = true ∧ (s.slot s.engine.scanIdx).remaining - 1 = 0 ∧
      s.visit = (s.setSlot s.engine.scanIdx (s.slot s.engine.scanIdx).countDown).dispatch
        s.engine.scanIdx) := by
  unfold State.visit
  cases hl : (s.slot s.engine.scanIdx).live with
  | false => exact .inl ⟨rfl, by simp [hl]⟩
  | true =>
    by_cases hr : (s.slot s.engine.scanIdx).remaining - 1 = 0
    · refine .inr (.inr ⟨rfl, hr, ?_⟩)
      simp only [hl, if_true, State.setSlot_slot_self]
      exact if_pos hr
    · refine .inr (.inl ⟨rfl, hr, ?_⟩)
      simp only [hl, if_true, State.setSlot_slot_self]
      exact if_neg hr

/-- The post-fire action by kind (42_tick_scan.md R106). -/
theorem Slot.postFire_cases (x : Slot) :
    (x.kind = .forever ∧ x.postFire = x.reload) ∨
    (x.kind = .ntimes ∧ 0 < (x.count - 1).toInt ∧
      x.postFire = { x with count := x.count - 1, remaining := x.period }) ∨
    (x.kind = .ntimes ∧ ¬ 0 < (x.count - 1).toInt ∧
      x.postFire = { x with count := x.count - 1, alloc := false, enabled := false }) ∨
    (x.kind = .once ∧ x.postFire = x.free) := by
  unfold Slot.postFire
  cases hk : x.kind with
  | forever => simp
  | once => simp
  | ntimes =>
    by_cases hc : 0 < (x.count - 1).toInt
    · exact .inr (.inl ⟨rfl, hc, if_pos hc⟩)
    · exact .inr (.inr (.inl ⟨rfl, hc, if_neg hc⟩))

/-- Whether a `DONE` touches the slot that fired (42_tick_scan.md R105, R106). -/
theorem State.completeFiring_cases (s : State) :
    (s.engine.curLive = false ∧ s.completeFiring = s) ∨
    (s.engine.curLive = true ∧ s.completeFiring =
      s.setSlot s.engine.scanIdx (s.slot s.engine.scanIdx).postFire) := by
  unfold State.completeFiring
  cases s.engine.curLive <;> simp

/-- What a dispatch return leaves (42_tick_scan.md R105). -/
theorem State.dispatchReturn_eq (s : State) :
    s.dispatchReturn = { s with
      slots := s.completeFiring.slots
      disp := { s.disp with valid := false }
      engine := { s.engine with curLive := false }.advance } := by
  unfold State.dispatchReturn
  rcases s.completeFiring_cases with ⟨-, h⟩ | ⟨-, h⟩
  · rw [h]
  · rw [h]; rfl

/-- What freeing a slot leaves (41_slot_control.md R91). -/
theorem State.deleteSlot_eq (s : State) (i : SlotId) :
    s.deleteSlot i = (s.setSlot i (s.slot i).free).setEngine { s.engine with
      curLive := s.engine.curLive && !decide (s.engine.phase = .waitCb ∧ s.engine.scanIdx = i) } := by
  unfold State.deleteSlot
  split
  · next h => simp [h]
  · next h => rw [decide_eq_false h]; simp [State.setEngine]; rfl

/-- What a turn of the engine comes to (42_tick_scan.md R101, R102). -/
theorem State.engineTurn_cases (s : State) :
    (s.engine.phase = .idle ∧ s.engine.tickPend = true ∧ s.engineTurn = s.scanStart) ∨
    (s.engine.phase = .scan ∧ s.engineTurn = s.visit) ∨
    (¬ s.EngineEnabled ∧ s.engineTurn = s) := by
  unfold State.engineTurn State.EngineEnabled
  cases hp : s.engine.phase with
  | scan => exact .inr (.inl ⟨rfl, rfl⟩)
  | waitCb => exact .inr (.inr ⟨by simp, rfl⟩)
  | idle =>
    cases ht : s.engine.tickPend with
    | false => exact .inr (.inr ⟨by simp, by simp⟩)
    | true => exact .inl ⟨rfl, rfl, by simp⟩

end Sys2Proof.Machine
end

