-- ==== Sys2Proof/Laws/PerInstr.lean ====
section
/-! SUPPORT. Statements made per command: every reserved bit of a command word is 0. -/

namespace Sys2Proof.Laws.ReservedBitsZero

/-- Bits [31:16] and bit [7] of the word of a well-formed command are 0 (30_encoding.md R60). -/
def Statement (i : Instr) : Prop :=
  i.wf = true → fieldHigh (encode i) = 0 ∧ fieldBit7 (encode i) = false

theorem createOnce (p : Bool) : Statement (.createOnce p) := fun _ =>
  wordOf_reserved_bits (by decide) (by decide) (by decide)
theorem createForever (p : Bool) : Statement (.createForever p) := fun _ =>
  wordOf_reserved_bits (by decide) (by decide) (by decide)
theorem createN (p : Bool) : Statement (.createN p) := fun _ =>
  wordOf_reserved_bits (by decide) (by decide) (by decide)
theorem delete (slot : Nat) : Statement (.delete slot) := fun h =>
  wordOf_reserved_bits (by decide) (by decide) (slotFieldFits_lt h)
theorem enable (slot : Nat) : Statement (.enable slot) := fun h =>
  wordOf_reserved_bits (by decide) (by decide) (slotFieldFits_lt h)
theorem disable (slot : Nat) : Statement (.disable slot) := fun h =>
  wordOf_reserved_bits (by decide) (by decide) (slotFieldFits_lt h)
theorem restart (slot : Nat) : Statement (.restart slot) := fun h =>
  wordOf_reserved_bits (by decide) (by decide) (slotFieldFits_lt h)
theorem tick : Statement .tick := fun _ =>
  wordOf_reserved_bits (by decide) (by decide) (by decide)
theorem done : Statement .done := fun _ =>
  wordOf_reserved_bits (by decide) (by decide) (by decide)
theorem tarm : Statement .tarm := fun _ =>
  wordOf_reserved_bits (by decide) (by decide) (by decide)
theorem tstart : Statement .tstart := fun _ =>
  wordOf_reserved_bits (by decide) (by decide) (by decide)
theorem tstop : Statement .tstop := fun _ =>
  wordOf_reserved_bits (by decide) (by decide) (by decide)
theorem trestart : Statement .trestart := fun _ =>
  wordOf_reserved_bits (by decide) (by decide) (by decide)

end Sys2Proof.Laws.ReservedBitsZero
end

