-- ==== Sys2Proof/Laws/Step.lean ====
section
/-! SUPPORT. What a step can be: one equation per event, and the inversion that later proofs start from. -/

namespace Sys2Proof.Machine

/-! ### The port -/

/-- A word access inside the window reaches the register at its offset (20_memory.md R41). -/
theorem accessReg_offset (r : Reg) : accessReg r.offset .word = .ok r := by
  cases r <;> rfl

/-- A register stands at its offset only (20_memory.md R41). -/
theorem Reg.ofOffset_eq_some {off : Nat} {r : Reg} (h : Reg.ofOffset off = some r) :
    off = r.offset := by
  unfold Reg.ofOffset at h
  split at h <;> cases h <;> rfl

/-- An access that is answered is a word access at the offset of a register (20_memory.md R42). -/
theorem accessReg_eq_ok {off : Nat} {width : AccessWidth} {r : Reg}
    (h : accessReg off width = .ok r) : width = .word ∧ off = r.offset := by
  unfold accessReg at h
  split at h
  · cases h
  · next hw =>
    split at h
    · cases h
    · split at h
      · next r' hr =>
        cases h
        refine ⟨by simpa using hw, ?_⟩
        exact Reg.ofOffset_eq_some hr
      · cases h

/-- Every register write but that of `CMD` touches the operand registers and `overrun` only
(20_memory.md R44). -/
theorem State.regWrite_eq (s : State) (v : Word) (r : Reg) :
    s.regWrite v r = { s with
      args := (s.regWrite v r).args
      engine := { s.engine with overrun := (s.regWrite v r).engine.overrun } } := by
  cases r <;> simp [State.regWrite, State.writeFlags]
  split <;> rfl

/-! ### A step, event by event -/

theorem step_nil {s : State} (h : s.schedule = []) : step s = .next s.engineTurn := by
  simp [step, State.fetch, h]

theorem step_cons {s : State} {e : Event} {rest : List Event} (h : s.schedule = e :: rest) :
    step s =
      match { s with schedule := rest }.deliver e with
      | .command i t => exec i t
      | .finished o => o := by
  have hf : s.fetch = { s with schedule := rest }.deliver e := by simp [State.fetch, h]
  exact congrArg (fun f : Fetched =>
    match f with
    | .command i t => exec i t
    | .finished o => o) hf

theorem step_engine {s : State} {rest : List Event} (h : s.schedule = .engine :: rest) :
    step s = .next { s with schedule := rest }.engineTurn := by
  rw [step_cons h]; rfl

theorem step_rst {s : State} {rest : List Event} (h : s.schedule = .rst :: rest) :
    step s = .next { s with schedule := rest }.resetBlock := by
  rw [step_cons h]; rfl

theorem step_tick {s : State} {rest : List Event} (h : s.schedule = .tick :: rest) :
    step s = if s.trig.armed && s.trig.run then .next { s with schedule := rest }.tickEvent
      else .fault .tickWithoutTrigger := by
  rw [step_cons h]
  simp only [State.deliver, State.tickPulse]
  cases s.trig.armed && s.trig.run <;> rfl

theorem step_read {s : State} {off : Nat} {width : AccessWidth} {rest : List Event}
    (h : s.schedule = .read off width :: rest) :
    step s = match accessReg off width with
      | .error e => .refused e
      | .ok r => .next ({ s with schedule := rest }.emit (.readData off (s.regRead r))) := by
  rw [step_cons h]
  simp only [State.deliver, State.readAccess]
  cases accessReg off width <;> rfl

/-- A write of a register other than `CMD`. -/
theorem step_write {s : State} {off : Nat} {width : AccessWidth} {v : Word} {r : Reg}
    {rest : List Event} (h : s.schedule = .write off width v :: rest)
    (hr : accessReg off width = .ok r) (hc : r ≠ .cmd) :
    step s = .next ({ s with schedule := rest }.regWrite v r) := by
  rw [step_cons h]
  cases r <;> simp_all [State.deliver, State.writeAccess]

theorem step_write_refused {s : State} {off : Nat} {width : AccessWidth} {v : Word} {e : Refusal}
    {rest : List Event} (h : s.schedule = .write off width v :: rest)
    (hr : accessReg off width = .error e) : step s = .refused e := by
  rw [step_cons h]
  simp [State.deliver, State.writeAccess, hr]

/-- A write of `CMD` (30_encoding.md R67). -/
theorem step_cmdWrite {s : State} {w : Word} {rest : List Event}
    (h : s.schedule = cmdWrite w :: rest) :
    step s = match decode w with
      | .ok i => exec i { s with schedule := rest }
      | .error _ => .next ({ s with schedule := rest }.setStatus .invalid) := by
  rw [step_cons h]
  simp only [cmdWrite, State.deliver, State.writeAccess, State.commandWrite]
  have : accessReg 0 .word = .ok .cmd := rfl
  rw [this]
  dsimp only
  cases decode w <;> rfl

/-- What a step that answers a next state was (00_scope.md R5): a turn of the engine, a pulse, a
read, a write of a register, a reserved word, a command, or a reset. -/
theorem step_next_cases {s t : State} (h : step s = .next t) :
    (s.schedule = [] ∧ t = s.engineTurn) ∨
    ∃ rest, let s' : State := { s with schedule := rest }
      (s.schedule = .engine :: rest ∧ t = s'.engineTurn) ∨
      (s.schedule = .tick :: rest ∧ s.trig.armed = true ∧ s.trig.run = true ∧ t = s'.tickEvent) ∨
      (∃ r : Reg, s.schedule = .read r.offset .word :: rest ∧
        t = s'.emit (.readData r.offset (s.regRead r))) ∨
      (∃ (r : Reg) (v : Word), r ≠ .cmd ∧ s.schedule = .write r.offset .word v :: rest ∧
        t = s'.regWrite v r) ∨
      (∃ (w : Word) (e : Reserved), s.schedule = cmdWrite w :: rest ∧ decode w = .error e ∧
        t = s'.setStatus .invalid) ∨
      (∃ (w : Word) (i : Instr), s.schedule = cmdWrite w :: rest ∧ decode w = .ok i ∧
        exec i s' = .next t) ∨
      (s.schedule = .rst :: rest ∧ t = s'.resetBlock) := by
  cases hs : s.schedule with
  | nil => rw [step_nil hs] at h; cases h; exact .inl ⟨rfl, rfl⟩
  | cons e rest =>
    refine .inr ⟨rest, ?_⟩
    cases e with
    | engine => rw [step_engine hs] at h; cases h; exact .inl ⟨rfl, rfl⟩
    | rst =>
      rw [step_rst hs] at h; cases h
      exact .inr (.inr (.inr (.inr (.inr (.inr ⟨rfl, rfl⟩)))))
    | tick =>
      rw [step_tick hs] at h
      split at h
      · next ht =>
        cases h
        simp only [Bool.and_eq_true] at ht
        exact .inr (.inl ⟨rfl, ht.1, ht.2, rfl⟩)
      · cases h
    | read off width =>
      rw [step_read hs] at h
      split at h
      · cases h
      · next r hr =>
        cases h
        obtain ⟨rfl, rfl⟩ := accessReg_eq_ok hr
        exact .inr (.inr (.inl ⟨r, rfl, rfl⟩))
    | write off width v =>
      cases hr : accessReg off width with
      | error e => rw [step_write_refused hs hr] at h; cases h
      | ok r =>
        obtain ⟨rfl, rfl⟩ := accessReg_eq_ok hr
        by_cases hc : r = .cmd
        · subst hc
          rw [step_cmdWrite (w := v) hs] at h
          cases hd : decode v with
          | ok i =>
            rw [hd] at h
            exact .inr (.inr (.inr (.inr (.inr (.inl ⟨v, i, rfl, hd, h⟩)))))
          | error e =>
            rw [hd] at h
            cases h
            exact .inr (.inr (.inr (.inr (.inl ⟨v, e, rfl, hd, rfl⟩))))
        · rw [step_write hs hr hc] at h
          cases h
          exact .inr (.inr (.inr (.inl ⟨r, v, hc, rfl, rfl⟩)))

end Sys2Proof.Machine
end

