-- ==== Sys2Proof/Tests/Slice0.lean ====
section
/-! SUPPORT. Tests of single steps, their expected results taken from the spec (95_test_vectors.md and the rules), and for every
statement with hypotheses a concrete state and operands that meet them. -/

namespace Sys2Proof.Tests

open Sys2Proof Sys2Proof.Machine

/-! ### Helpers -/

/-- A command word from its fields (30_encoding.md R60), most significant first:
[31:16], slot [15:8], bit [7], P [6], kind [5:4], op [3:0]. -/
def fields (high : BitVec 16) (slot : BitVec 8) (bit7 p : BitVec 1) (kind : BitVec 2) (op : BitVec 4) : Word :=
  high ++ slot ++ bit7 ++ p ++ kind ++ op

/-- The outcome is a next state that satisfies `p`. -/
def nextIs (o : Host.Outcome State Fault Refusal) (p : State → Bool) : Bool :=
  match o with
  | .next t => p t
  | _ => false

/-- The outcome is the refusal `e`. -/
def refusedAs (o : Host.Outcome State Fault Refusal) (e : Refusal) : Bool :=
  match o with
  | .refused r => r == e
  | _ => false

/-- The outcome is the fault `e`. -/
def faultsAs (o : Host.Outcome State Fault Refusal) (e : Fault) : Bool :=
  match o with
  | .fault r => r == e
  | _ => false

/-- A slot without parameter, with the callback 0x10. -/
def timer (k : Kind) (enabled : Bool) (period remaining count : Word) : Slot :=
  { alloc := true, enabled := enabled, kind := k, period := period, remaining := remaining, cb := 0x10,
    hasParam := false, param := 0, count := count }

/-- The reset state with the slot `x` at index `i`. -/
def withTimer (i : SlotId) (x : Slot) : State := State.reset.setSlot i x

/-- The reset state with these operand registers. -/
def withArgs (period count cb param : Word) : State :=
  { State.reset with args := { period := period, count := count, cb := cb, param := param } }

/-- The same slot at every index, with these operand registers. -/
def allTimers (x : Slot) (a : Args) : State :=
  { State.reset with slots := Vector.replicate 16 x, args := a }

/-- The engine at a slot, in a phase. -/
def atSlot (s : State) (phase : Phase) (i : SlotId) (curLive : Bool) : State :=
  { s with
    engine := { s.engine with phase := phase, scanIdx := i, curLive := curLive }
    disp := { s.disp with valid := phase == .waitCb, slot := i } }

/-- The state with these events to come. -/
def facing (s : State) (es : List Event) : State := { s with schedule := es }

/-- The reset state with the trigger armed at 1000 microseconds. -/
def armed (run : Bool) : State :=
  { State.reset with trig := { armed := true, run := run, period := 1000 } }

/-- Slot 15 has fired and its `DONE` comes next. -/
def doneComes (x : Slot) : State :=
  facing (atSlot (withTimer 15 x) .waitCb 15 true) [cmdWrite (encode .done)]

def every5 : Slot := timer .forever true 5 3 foreverCount

/-! ### Decoding: words laid out field by field from R60 to R62 -/

theorem test_decode_createOnce : decode (fields 0 0 0 0 0b00 0b0001) = .ok (.createOnce false) := by decide
theorem test_decode_createOnce_p : decode (fields 0 0 0 1 0b00 0b0001) = .ok (.createOnce true) := by decide
theorem test_decode_createForever : decode (fields 0 0 0 0 0b01 0b0001) = .ok (.createForever false) := by decide
theorem test_decode_createN : decode (fields 0 0 0 0 0b10 0b0001) = .ok (.createN false) := by decide
theorem test_decode_delete : decode (fields 0 0b00001001 0 0 0 0b0010) = .ok (.delete 9) := by decide
theorem test_decode_enable : decode (fields 0 0b00000000 0 0 0 0b0011) = .ok (.enable 0) := by decide
theorem test_decode_disable : decode (fields 0 0b11111111 0 0 0 0b0100) = .ok (.disable 255) := by decide
theorem test_decode_restart : decode (fields 0 0b10000000 0 0 0 0b0101) = .ok (.restart 128) := by decide
theorem test_decode_tick : decode (fields 0 0 0 0 0 0b0110) = .ok .tick := by decide
theorem test_decode_done : decode (fields 0 0 0 0 0 0b0111) = .ok .done := by decide
theorem test_decode_tarm : decode (fields 0 0 0 0 0 0b1000) = .ok .tarm := by decide
theorem test_decode_tstart : decode (fields 0 0 0 0 0 0b1001) = .ok .tstart := by decide
theorem test_decode_tstop : decode (fields 0 0 0 0 0 0b1010) = .ok .tstop := by decide
theorem test_decode_trestart : decode (fields 0 0 0 0 0 0b1011) = .ok .trestart := by decide

/-- V1 and V9: `op` 0 and 12 to 15 are reserved. -/
theorem test_reserved_op :
    decode 0x00000000 = .error .opcode ∧ decode 0x0000000C = .error .opcode ∧
    decode 0x0000000D = .error .opcode ∧ decode 0x0000000E = .error .opcode ∧
    decode 0x0000000F = .error .opcode := by decide
/-- V3 to V8. -/
theorem test_reserved_fields :
    decode 0x00000031 = .error .createKind ∧ decode 0x00000101 = .error .createSlot ∧
    decode 0x00000012 = .error .controlBits ∧ decode 0x00000086 = .error .bit7 ∧
    decode 0x00010006 = .error .highBits ∧ decode 0x00000107 = .error .plainBits := by decide
/-- The P bit is reserved outside the creates (R61). -/
theorem test_reserved_p :
    decode (fields 0 3 0 1 0 0b0010) = .error .controlBits ∧
    decode (fields 0 0 0 1 0 0b0110) = .error .plainBits := by decide

/-- The words of R62 and R69. -/
theorem test_encode :
    encode (.createForever true) = 0x00000051 ∧ encode (.delete 255) = 0x0000FF02 ∧
    encode (.restart 15) = 0x00000F05 ∧ encode .trestart = 0x0000000B := by decide

/-- The table's numbering: a command of fewer bits has zeros above. -/
theorem test_tableWord :
    decodeTableWord 32 0x0000FF02 = some (.delete 255) ∧ decodeTableWord 8 0x06 = some .tick ∧
    decodeTableWord 32 0x00010006 = none := by decide

/-- A step after `withFetchWord` runs the placed command. -/
theorem test_withFetchWord :
    nextIs (step (State.reset.withFetchWord 32 0x06)) (fun t => t.engine.tickPend) = true := by decide

/-! ### Well-formedness: an identifier that does not fit the 8-bit field is refused -/

theorem test_wf_delete : (Instr.delete 256).wf = false ∧ (Instr.delete 255).wf = true := by decide
theorem test_wf_enable : (Instr.enable 256).wf = false ∧ (Instr.enable 0).wf = true := by decide
theorem test_wf_disable : (Instr.disable 256).wf = false ∧ (Instr.disable 16).wf = true := by decide
theorem test_wf_restart : (Instr.restart 300).wf = false ∧ (Instr.restart 15).wf = true := by decide

/-! ### Creates -/

/-- V25. -/
theorem test_createOnce :
    nextIs (exec (.createOnce false) (withArgs 0xFFFFFFFF 9 0x1 0)) (fun t =>
      decide (t.status = .ok ∧ t.result = 0 ∧ t.slot 0 =
        ⟨true, true, .once, 0xFFFFFFFF, 0xFFFFFFFF, 0x1, false, 0, 1⟩)) = true := by decide
/-- V2. -/
theorem test_createOnce_zero_period :
    nextIs (exec (.createOnce false) (withArgs 0 0 0x1 0)) (fun t =>
      decide (t.status = .invalid ∧ t.result = 0xFFFFFFFF ∧ (t.slot 0).alloc = false)) = true := by decide
/-- V13. -/
theorem test_createForever_p :
    nextIs (exec (.createForever true) (withArgs 7 0 0x500 0x77)) (fun t =>
      decide (t.status = .ok ∧ t.result = 0 ∧ t.slot 0 =
        ⟨true, true, .forever, 7, 7, 0x500, true, 0x77, 0xFFFFFFFF⟩)) = true := by decide
/-- V28. -/
theorem test_createForever_full :
    nextIs (exec (.createForever false) (allTimers every5 ⟨1, 0, 0x1, 0⟩)) (fun t =>
      decide (t.status = .full ∧ t.result = 0xFFFFFFFF ∧ t.slot 15 = every5)) = true := by decide
/-- V24: the largest count. -/
theorem test_createN_largest :
    nextIs (exec (.createN false) (withArgs 5 0x7FFFFFFF 0x1 0)) (fun t =>
      decide (t.status = .ok ∧ t.result = 0 ∧ (t.slot 0).count = 0x7FFFFFFF)) = true := by decide
/-- V22: the count `-2^31`. -/
theorem test_createN_negative :
    nextIs (exec (.createN false) (withArgs 5 0x80000000 0x1 0)) (fun t =>
      decide (t.status = .invalid ∧ t.result = 0xFFFFFFFF ∧ (t.slot 0).alloc = false)) = true := by decide

/-! ### Slot control -/

/-- V47. -/
theorem test_delete :
    nextIs (exec (.delete 0) (withTimer 0 (timer .ntimes false 5 3 2))) (fun t =>
      decide ((t.slot 0).state = .free ∧ t.firstFree = some 0)) = true := by decide
/-- R91, V43: deleting the slot under dispatch clears `cur_live`; the dispatch stays. -/
theorem test_delete_under_dispatch :
    nextIs (exec (.delete 1) (atSlot (withTimer 1 every5) .waitCb 1 true)) (fun t =>
      !t.engine.curLive && t.disp.valid && t.status == .ok) = true := by decide
/-- V45. -/
theorem test_enable :
    nextIs (exec (.enable 0) (withTimer 0 (timer .forever false 5 3 foreverCount))) (fun t =>
      decide (t.slot 0 = every5)) = true := by decide
/-- V49. -/
theorem test_enable_free :
    nextIs (exec (.enable 4) State.reset) (fun t =>
      decide (t.status = .ok ∧ (t.slot 4).enabled = false)) = true := by decide
/-- V44. -/
theorem test_disable :
    nextIs (exec (.disable 0) (withTimer 0 every5)) (fun t =>
      decide (t.slot 0 = timer .forever false 5 3 foreverCount)) = true := by decide
/-- V48. -/
theorem test_restart :
    nextIs (exec (.restart 0) (withTimer 0 (timer .ntimes true 5 3 2))) (fun t =>
      decide (t.slot 0 = timer .ntimes true 5 5 2)) = true := by decide
/-- V12. -/
theorem test_restart_free :
    nextIs (exec (.restart 15) State.reset) (fun t => decide (t = State.reset)) = true := by decide

/-! ### Tick, scan, completion -/

/-- R100. -/
theorem test_tick :
    nextIs (exec .tick State.reset) (fun t => t.engine.tickPend && !t.engine.overrun) = true := by decide
/-- R100, V35: a tick on top of a latched one is lost. -/
theorem test_tick_overrun :
    nextIs (exec .tick { State.reset with engine := ⟨.waitCb, 0, true, false, false⟩ }) (fun t =>
      t.engine.tickPend && t.engine.overrun) = true := by decide
/-- V10. -/
theorem test_done_surplus :
    nextIs (exec .done State.reset) (fun t => t.status == .invalid && !t.disp.valid) = true := by decide
/-- V34: the post-fire action applies to a slot that its callback disabled. -/
theorem test_done_disabled :
    nextIs (exec .done (atSlot (withTimer 0 (timer .ntimes false 2 0 2)) .waitCb 0 true)) (fun t =>
      decide (t.slot 0 = timer .ntimes false 2 2 1 ∧ t.engine.scanIdx = 1 ∧ t.irqO = false)) = true := by
  decide
/-- V33: the dispatch, `DISP_INFO` and `FLAGS` during the callback. -/
theorem test_visit_fires :
    nextIs (step (atSlot (withTimer 3 ⟨true, true, .once, 2, 1, 0x33, true, 0xBEEF, 1⟩) .scan 3 false))
      (fun t => decide (t.out = [.dispatch 3 0x33 true 0xBEEF] ∧ t.dispInfoWord = 0x80000103 ∧
        t.flagsWord = 0x09)) = true := by decide
/-- V36: the scan ends at index 15. -/
theorem test_visit_last :
    nextIs (step (atSlot State.reset .scan 15 false)) (fun t => t.engine.phase == .idle) = true := by decide

/-! ### Trigger -/

/-- V51. -/
theorem test_tarm_zero :
    nextIs (exec .tarm (withArgs 0 0 0 0)) (fun t =>
      decide (t.status = .trigFail ∧ t.flagsWord = 0)) = true := by decide
/-- V54. -/
theorem test_tstart :
    nextIs (exec .tstart (armed false)) (fun t =>
      decide (t.status = .ok ∧ t.flagsWord = 0x30)) = true := by decide
/-- V55. -/
theorem test_tstart_unarmed :
    nextIs (exec .tstart State.reset) (fun t => decide (t = State.reset)) = true := by decide
/-- V53. -/
theorem test_tstop :
    nextIs (exec .tstop (armed true)) (fun t => decide (t.flagsWord = 0x10)) = true := by decide
/-- V56. -/
theorem test_trestart :
    nextIs (exec .trestart (armed false)) (fun t => decide (t.flagsWord = 0x30)) = true := by decide
/-- R124, D22: before any arm a no-op, so no request is seen. -/
theorem test_trestart_unarmed :
    nextIs (exec .trestart State.reset) (fun t => decide (t = State.reset)) = true := by decide

/-! ### The register window -/

/-- V61. -/
theorem test_write_status :
    nextIs (step (facing State.reset [.write 0x04 .word 0xFFFFFFFF])) (fun t =>
      decide (t = State.reset)) = true := by decide
/-- V62, the write. -/
theorem test_write_argCb :
    nextIs (step (facing State.reset [.write 0x14 .word 0x12345678])) (fun t =>
      decide (t.args = ⟨0, 0, 0x12345678, 0⟩)) = true := by decide
/-- V63 and V66. -/
theorem test_read :
    nextIs (step (facing State.reset [.read 0x20 .word])) (fun t =>
      decide (t.out = [.readData 0x20 0])) = true ∧
    nextIs (step (facing State.reset [.read 0x08 .word])) (fun t =>
      decide (t.out = [.readData 0x08 0xFFFFFFFF])) = true := by decide
/-- V65. -/
theorem test_write_flags :
    nextIs (step (facing { State.reset with engine := ⟨.idle, 0, false, true, false⟩ }
      [.write 0x28 .word 0xFFFFFFFB])) (fun t => t.engine.overrun) = true := by decide
/-- V67. -/
theorem test_byte_write_refused :
    refusedAs (step (facing State.reset [.write 0x0D .byte 0])) .accessWidth = true := by decide
/-- R125, log entry 12: no pulse may occur before the trigger was armed. -/
theorem test_pulse_unarmed :
    faultsAs (step (facing State.reset [.tick])) .tickWithoutTrigger = true := by decide
/-- R30, R160: a reset in the midst of a callback. -/
theorem test_rst :
    nextIs (step (facing (atSlot (withTimer 3 every5) .waitCb 3 true) [.rst])) (fun t =>
      t.engine.phase == .idle && !t.irqO && !(t.slot 3).alloc && t.result == 0xFFFFFFFF) = true := by
  decide

/-! ### Witnesses: for every statement with hypotheses, states and operands that meet them, clause by
clause and at the edges of the ranges -/

theorem witness_DecodeFollowsMatchAndMask :
    decode 0x00000041 = .ok (.createOnce true) ∧ decode 0x00000011 = .ok (.createForever false) ∧
    decode 0x00000061 = .ok (.createN true) ∧ decode 0x0000FF02 = .ok (.delete 255) ∧
    decode 0x00000003 = .ok (.enable 0) ∧ decode 0x00000F04 = .ok (.disable 15) ∧
    decode 0x00001005 = .ok (.restart 16) := by decide
theorem witness_DecodeOfEncode :
    (Instr.delete 255).wf = true ∧ (Instr.restart 0).wf = true ∧ (Instr.createN true).wf = true ∧
    Instr.trestart.wf = true := by decide
theorem witness_EncodeOfDecode :
    decode 0x0000FF05 = .ok (.restart 255) ∧ decode 0x00000006 = .ok .tick := by decide
theorem witness_ReservedWordOnlySetsStatus :
    (facing State.reset [.write 0x00 .word 0x31]).schedule = .write 0x00 .word 0x31 :: [] ∧
    decode 0x31 = .error .createKind ∧ decode 0xFFFFFFFF = .error .highBits := by decide
theorem witness_StepRunsTheDecodedCommand :
    (facing State.reset [.write 0x00 .word 0xFF02, .tick]).schedule =
      .write 0x00 .word 0xFF02 :: [.tick] ∧ decode 0xFF02 = .ok (.delete 255) := by decide
/-- One state for each offset, with the value the clause asks for. -/
theorem witness_RegisterReadAnswers :
    ∀ p ∈ ([(0x00, 0), (0x04, 3), (0x08, 15), (0x0C, 1), (0x10, 2), (0x14, 4), (0x18, 5), (0x2C, 0)] :
        List (Nat × Word)),
      let s := facing { withArgs 1 2 4 5 with status := .trigFail, result := 15 } [.read p.1 .word]
      s.schedule = .read p.1 .word :: [] ∧
      ((p.1 = 0x00 ∧ p.2 = 0) ∨
        (p.1 = 0x04 ∧ p.2 = (match s.status with | .ok => 0 | .full => 1 | .invalid => 2 | .trigFail => 3)) ∨
        (p.1 = 0x08 ∧ p.2 = s.result) ∨ (p.1 = 0x0C ∧ p.2 = s.args.period) ∨
        (p.1 = 0x10 ∧ p.2 = s.args.count) ∨ (p.1 = 0x14 ∧ p.2 = s.args.cb) ∨
        (p.1 = 0x18 ∧ p.2 = s.args.param) ∨ (p.1 = 0x2C ∧ p.2 = 0)) := by decide
theorem witness_FlagsRegisterBits :
    (facing State.reset [.read 0x28 .word]).schedule = .read 0x28 .word :: [] ∧
    (facing State.reset [.write 0x28 .word 4]).schedule = .write 0x28 .word 4 :: [] := by decide
theorem witness_DispatchRegistersShowTheLatches :
    ∀ off ∈ [0x1C, 0x20, 0x24],
      (off = 0x1C ∨ off = 0x20 ∨ off = 0x24) ∧
      (facing State.reset [.read off .word]).schedule = .read off .word :: [] ∧
      (facing State.reset [.read off .word]).disp.valid = false ∧
      (facing (atSlot State.reset .waitCb 15 true) [.read off .word]).schedule =
        .read off .word :: [] ∧
      (facing (atSlot State.reset .waitCb 15 true) [.read off .word]).disp.valid = true := by decide
theorem witness_ReadOnlyRegistersIgnoreWrites :
    (∀ off ∈ [0x04, 0x08, 0x1C, 0x20, 0x24, 0x2C],
      (off = 0x04 ∨ off = 0x08 ∨ off = 0x1C ∨ off = 0x20 ∨ off = 0x24 ∨ off = 0x2C) ∧
      (facing State.reset [.write off .word 1]).schedule = .write off .word 1 :: []) ∧
    (∀ off ∈ [0x00, 0x2C], (off = 0x00 ∨ off = 0x2C) ∧
      (facing State.reset [.read off .word]).schedule = .read off .word :: []) := by decide
theorem witness_OperandRegistersReadBack :
    ∀ off ∈ [0x0C, 0x10, 0x14, 0x18],
      (off = 0x0C ∨ off = 0x10 ∨ off = 0x14 ∨ off = 0x18) ∧
      (facing State.reset [.write off .word 0xFFFFFFFF]).schedule = .write off .word 0xFFFFFFFF :: [] ∧
      (facing State.reset [.write off .word 0xFFFFFFFF, .read off .word, .rst]).schedule =
        .write off .word 0xFFFFFFFF :: .read off .word :: [.rst] := by decide
theorem witness_AccessSideEffects :
    (∃ s t, step s = .next t ∧ s.schedule = .read 0x08 .word :: []) ∧
    (∃ s t, step s = .next t ∧ s.schedule = .write 0x0C .word 7 :: [] ∧ 0x0C ≠ 0x00 ∧
      t.args ≠ s.args) ∧
    (∃ s t, step s = .next t ∧ s.schedule = .write 0x28 .word 4 :: [] ∧ 0x28 ≠ 0x00 ∧
      t.engine.overrun ≠ s.engine.overrun) :=
  ⟨⟨facing State.reset [.read 0x08 .word], _, rfl, rfl⟩,
   ⟨facing State.reset [.write 0x0C .word 7], _, rfl, rfl, by decide, by decide⟩,
   ⟨facing { State.reset with engine := ⟨.idle, 0, false, true, false⟩ } [.write 0x28 .word 4],
    _, rfl, rfl, by decide, by decide⟩⟩
theorem witness_OnlyAlignedWordsAreAccepted :
    (∀ e ∈ [Event.read 0x0D .word, .write 0x0C .byte 1, .read 0x30 .word, .read 0x2C .word,
        .write 0x00 .word 6], (facing State.reset [e]).schedule = e :: []) ∧
    (0x0D % 4 ≠ 0 ∧ AccessWidth.byte ≠ .word ∧ 0x30 ≤ 0x30) ∧
    (0x2C % 4 = 0 ∧ 0x2C < 0x30) := by decide
theorem witness_CreateProcedure :
    (¬ State.reset.OperandsLegal .once ∧ ¬ (withArgs 5 0x80000000 0 0).OperandsLegal .ntimes) ∧
    ((allTimers every5 ⟨1, 1, 0, 0⟩).OperandsLegal .ntimes ∧
      ∀ i : SlotId, ((allTimers every5 ⟨1, 1, 0, 0⟩).slot i).alloc = true) ∧
    ((withArgs 0xFFFFFFFF 0x7FFFFFFF 0 0).OperandsLegal .ntimes ∧
      ((withArgs 0xFFFFFFFF 0x7FFFFFFF 0 0).slot 0).alloc = false ∧
      ∀ j : SlotId, j < 0 → ((withArgs 0xFFFFFFFF 0x7FFFFFFF 0 0).slot j).alloc = true) ∧
    (((allTimers every5 ⟨1, 0, 0, 0⟩).setSlot 15 Slot.reset).OperandsLegal .forever ∧
      (((allTimers every5 ⟨1, 0, 0, 0⟩).setSlot 15 Slot.reset).slot 15).alloc = false ∧
      ∀ j : SlotId, j < 15 →
        (((allTimers every5 ⟨1, 0, 0, 0⟩).setSlot 15 Slot.reset).slot j).alloc = true) := by decide
theorem witness_FreedIndexIsGivenOutAgain :
    (∀ j : SlotId, j ≤ 15 → ((allTimers every5 ⟨1, 1, 0, 0⟩).slot j).alloc = true) ∧
    (∀ j : SlotId, j ≤ 0 → ((allTimers every5 ⟨1, 1, 0, 0⟩).slot j).alloc = true) ∧
    (∀ k, (allTimers every5 ⟨1, 1, 0, 0⟩).OperandsLegal k) ∧
    (∃ t, exec (.delete (15 : SlotId).val) (allTimers every5 ⟨1, 1, 0, 0⟩) = .next t) ∧
    (∃ t, exec (.delete (0 : SlotId).val) (allTimers every5 ⟨1, 1, 0, 0⟩) = .next t) :=
  ⟨by decide, by decide, fun k => by cases k <;> decide, ⟨_, rfl⟩, ⟨_, rfl⟩⟩
theorem witness_InvalidIdentifierIsNoOp :
    ¬ State.reset.ValidId 0 ∧ ¬ (allTimers every5 ⟨0, 0, 0, 0⟩).ValidId 16 ∧
    ¬ State.reset.ValidId 255 := by decide
/-- For the statements of R91 to R94: the first and the last index, the latter under dispatch. -/
theorem witness_DeleteFreesTheSlot :
    ((withTimer 0 every5).slot 0).alloc = true ∧
    ((atSlot (withTimer 15 every5) .waitCb 15 true).slot 15).alloc = true := by decide
theorem witness_EnableSetsEnabledOnly :
    ((withTimer 0 (timer .forever false 5 3 foreverCount)).slot 0).alloc = true ∧
    ((withTimer 15 every5).slot 15).alloc = true := by decide
theorem witness_DisableClearsEnabledOnly : ((withTimer 15 every5).slot 15).alloc = true := by decide
theorem witness_RestartReloadsOnly : ((withTimer 15 every5).slot 15).alloc = true := by decide
theorem witness_SlotStateMachine :
    (∀ i, ((State.reset.slot i).enabled = true → (State.reset.slot i).alloc = true)) ∧
    (∃ t, exec (createInstr .ntimes true) (withArgs 1 1 0 0) = .next t) ∧
    (∃ t, exec (.delete 15) (withTimer 15 every5) = .next t) ∧
    (∃ t, exec (.enable 15) (withTimer 15 every5) = .next t) ∧
    (∃ t, exec (.disable 15) (withTimer 15 every5) = .next t) ∧
    (∃ t, exec (.restart 15) (withTimer 15 every5) = .next t) ∧
    (∃ s t, s.EngineMoves ∧ step s = .next t) ∧
    (∃ s t, s.Resets ∧ step s = .next t) ∧
    (∀ k, ∃ t, let s := atSlot (withTimer 15 (timer k true 5 0 2)) .waitCb 15 true
      exec .done s = .next t ∧ s.engine.phase = .waitCb ∧ s.engine.scanIdx = 15 ∧
        s.engine.curLive = true ∧ (s.slot 15).state ≠ .free) :=
  ⟨by decide, ⟨_, rfl⟩, ⟨_, rfl⟩, ⟨_, rfl⟩, ⟨_, rfl⟩, ⟨_, rfl⟩,
   ⟨State.reset, _, by decide, rfl⟩, ⟨facing State.reset [.rst], _, by decide, rfl⟩,
   fun k => by cases k <;> exact ⟨_, rfl, by decide, by decide, by decide, by decide⟩⟩
theorem witness_EnableDoesNotReviveARetiredSlot :
    (∀ x ∈ [timer .once true 5 0 1, timer .ntimes true 5 0 1],
      let s := atSlot (withTimer 15 x) .waitCb 15 true
      s.engine.phase = .waitCb ∧ s.engine.curLive = true ∧
      ((s.slot s.engine.scanIdx).kind = .once ∨
        ((s.slot s.engine.scanIdx).kind = .ntimes ∧ (s.slot s.engine.scanIdx).count = 1)) ∧
      nextIs (exec .done s) (fun _ => true) = true) := by decide
theorem witness_TickLatchesOrOverruns :
    (facing (armed true) [.tick]).schedule = .tick :: [] ∧
    (facing (armed true) [.tick]).trig.armed = true ∧ (facing (armed true) [.tick]).trig.run = true := by
  decide
theorem witness_PulseNeedsARunningTrigger :
    (facing State.reset [.tick]).schedule = .tick :: [] ∧
    (facing (armed true) [.tick]).schedule = .tick :: [] := by decide
theorem witness_ScanStart :
    State.reset.engine.phase = .idle ∧ State.reset.schedule = [] ∧
    State.reset.engine.tickPend = false ∧
    (facing State.reset [.engine]).schedule = .engine :: [] ∧
    ({ State.reset with engine := ⟨.idle, 15, true, false, false⟩ } : State).engine.tickPend = true := by
  decide
theorem witness_VisitCountsDownAndFires :
    (∀ i ∈ [(0 : SlotId), 15], ∀ x ∈ [Slot.reset, timer .forever false 5 1 foreverCount, every5,
        timer .once true 1 1 1, timer .once true 0xFFFFFFFF 0xFFFFFFFF 1],
      (atSlot (withTimer i x) .scan i false).engine.phase = .scan ∧
      (atSlot (withTimer i x) .scan i false).schedule = []) ∧
    ¬ ((timer .forever false 5 1 foreverCount).alloc = true ∧
      (timer .forever false 5 1 foreverCount).enabled = true) ∧
    (every5.alloc = true ∧ every5.enabled = true ∧ every5.remaining ≠ 1) ∧
    ((timer .once true 1 1 1).alloc = true ∧ (timer .once true 1 1 1).enabled = true ∧
      (timer .once true 1 1 1).remaining = 1) := by decide
theorem witness_DoneCompletesTheDispatch :
    State.reset.engine.phase ≠ .waitCb ∧
    (atSlot State.reset .waitCb 15 false).engine.phase = .waitCb ∧
    (atSlot State.reset .waitCb 15 false).engine.curLive = false ∧
    (∀ x ∈ [every5, timer .ntimes true 5 0 2, timer .ntimes true 5 0 1, timer .once true 5 0 1],
      (atSlot (withTimer 15 x) .waitCb 15 true).engine.phase = .waitCb ∧
      (atSlot (withTimer 15 x) .waitCb 15 true).engine.curLive = true ∧
      (atSlot (withTimer 15 x) .waitCb 15 true).slot 15 = x) ∧
    every5.kind = .forever ∧
    0 < ((timer .ntimes true 5 0 2).count - 1).toInt ∧
    ((timer .ntimes true 5 0 1).count - 1).toInt ≤ 0 := by decide
theorem witness_SequencingMovesInScanOrder :
    ∃ t, step (atSlot State.reset .scan 15 false) = .next t := ⟨_, rfl⟩
theorem witness_DispatchIsHeldUntilDone :
    ∃ t, let s := doneComes (timer .once true 5 0 1)
      s.Inv ∧ s.disp.valid = true ∧ step s = .next t := ⟨_, by decide, by decide, rfl⟩
theorem witness_OutputsHaveTheirCause :
    ∃ t, step (atSlot (withTimer 0 (timer .once true 1 1 1)) .scan 0 false) = .next t := ⟨_, rfl⟩
/-- The callback deletes its own slot and creates a timer, which takes the same index. -/
theorem witness_DeletedSlotGetsNoPostFire :
    ∃ t u, let s := { atSlot (withTimer 0 (timer .once true 1 0 1)) .waitCb 0 true with args := ⟨1, 0, 0, 0⟩ }
      s.engine.phase = .waitCb ∧ (s.slot s.engine.scanIdx).alloc = true ∧
      exec (.delete s.engine.scanIdx.val) s = .next t ∧ .done ∉ [Instr.createForever false] ∧
      execAll [.createForever false] t = .next u :=
  ⟨_, _, by decide, by decide, rfl, by decide, rfl⟩
theorem witness_QuiescentBlockStaysPut :
    State.reset.schedule = [] ∧ State.reset.engine.phase = .idle ∧
    State.reset.engine.tickPend = false := by decide
theorem witness_UnansweredDispatchHangs :
    (atSlot State.reset .waitCb 0 true).schedule = [] ∧
    (atSlot State.reset .waitCb 0 true).engine.phase = .waitCb := by decide
theorem witness_OnlyOneTickIsRemembered :
    (armed true).trig.armed = true ∧ (armed true).trig.run = true ∧
    (facing (armed true) [.tick]).schedule = List.replicate (0 + 1) .tick ++ [] ∧
    (facing (armed true) [.tick, .tick, .rst]).schedule = List.replicate (1 + 1) .tick ++ [.rst] := by
  decide
theorem witness_ScanEndsOrDispatches :
    (atSlot State.reset .scan 15 false).schedule = [] ∧
    (atSlot State.reset .scan 15 false).engine.phase = .scan ∧
    (atSlot (withTimer 0 every5) .scan 0 false).engine.phase = .scan := by decide
theorem witness_ScanIsTheSourceLoop :
    ({ withTimer 15 (timer .once true 1 1 1) with engine := ⟨.idle, 15, true, false, false⟩ } : State).schedule = [] ∧
    ({ withTimer 15 (timer .once true 1 1 1) with engine := ⟨.idle, 15, true, false, false⟩ } : State).engine.tickPend =
      true := by decide
theorem witness_DispatchFidelity :
    ∀ x ∈ [timer .forever true 2 2 foreverCount, timer .ntimes true 1 1 1, timer .once true 3 3 1],
      (withTimer 15 x).schedule = [] ∧ (withTimer 15 x).Quiescent ∧
      ((withTimer 15 x).slot 15).state = .enabled ∧ ((withTimer 15 x).slot 15).period ≠ 0 ∧
      ((withTimer 15 x).slot 15).remaining = ((withTimer 15 x).slot 15).period ∧
      (((withTimer 15 x).slot 15).kind = .ntimes → 0 < ((withTimer 15 x).slot 15).count.toInt) := by
  decide
theorem witness_FirstFiringAfterItsCountdown :
    (withTimer 15 every5).schedule = [] ∧ (withTimer 15 every5).Quiescent ∧
    ((withTimer 15 every5).slot 15).state = .enabled ∧
    ((withTimer 15 every5).slot 15).remaining ≠ 0 ∧
    3 ≤ ((withTimer 15 every5).slot 15).remaining.toNat := by decide
theorem witness_DisabledSlotKeepsItsPhase :
    ∃ t, (withTimer 15 every5).schedule = [] ∧ (withTimer 15 every5).Quiescent ∧
      ((withTimer 15 every5).slot 15).alloc = true ∧
      exec (.disable (15 : SlotId).val) (withTimer 15 every5) = .next t :=
  ⟨_, by decide, by decide, by decide, rfl⟩
theorem witness_TarmArmsAndStarts : State.reset.args.period = 0 := by decide
theorem witness_TstartResumesTheTrigger :
    (armed false).trig.armed = true ∧ State.reset.trig.armed = false := by decide
theorem witness_TrestartRestartsTheTrigger :
    (armed false).trig.armed = true ∧ State.reset.trig.armed = false := by decide
theorem witness_EveryCommandCompletesWithItsCode :
    ∃ t, let s := facing State.reset [cmdWrite 0x0000000F]
      s.schedule = cmdWrite 0x0000000F :: [] ∧ decode 0x0000000F = .error .opcode ∧ step s = .next t :=
  ⟨_, rfl, by decide, rfl⟩
theorem witness_StatusAndResultWriters :
    ∃ t, let s := facing { withArgs 1 0 0 0 with status := .full } [cmdWrite (encode (.createOnce true))]
      step s = .next t ∧ ¬ s.Resets ∧ t.status ≠ s.status ∧ t.result ≠ s.result :=
  ⟨_, rfl, by decide, by decide, by decide⟩
/-- The reset state before a write of 1 at the offset. -/
def writesOne (off : Nat) : State := facing State.reset [.write off .word 1]

theorem witness_OperandRegisterWriters :
    (∃ t, step (writesOne 0x0C) = .next t ∧ ¬ (writesOne 0x0C).Resets ∧
      t.args.period ≠ (writesOne 0x0C).args.period) ∧
    (∃ t, step (writesOne 0x10) = .next t ∧ ¬ (writesOne 0x10).Resets ∧
      t.args.count ≠ (writesOne 0x10).args.count) ∧
    (∃ t, step (writesOne 0x14) = .next t ∧ ¬ (writesOne 0x14).Resets ∧
      t.args.cb ≠ (writesOne 0x14).args.cb) ∧
    (∃ t, step (writesOne 0x18) = .next t ∧ ¬ (writesOne 0x18).Resets ∧
      t.args.param ≠ (writesOne 0x18).args.param) :=
  ⟨⟨_, rfl, by decide, by decide⟩, ⟨_, rfl, by decide, by decide⟩, ⟨_, rfl, by decide, by decide⟩,
   ⟨_, rfl, by decide, by decide⟩⟩
/-- A create, a control command, a visit and a `DONE`, each of which changes the slot. -/
theorem witness_SlotTableWriters :
    (∃ t, let s := facing (withArgs 1 1 0 0) [cmdWrite (encode (.createN true))]
      step s = .next t ∧ ¬ s.Resets ∧ t.slot 0 ≠ s.slot 0) ∧
    (∃ t, let s := facing (withTimer 15 every5) [cmdWrite (encode (.delete 15))]
      step s = .next t ∧ ¬ s.Resets ∧ t.slot 15 ≠ s.slot 15) ∧
    (∃ t, let s := atSlot (withTimer 15 every5) .scan 15 false
      step s = .next t ∧ ¬ s.Resets ∧ t.slot 15 ≠ s.slot 15) ∧
    (∃ t, let s := doneComes (timer .ntimes true 5 0 2)
      step s = .next t ∧ ¬ s.Resets ∧ t.slot 15 ≠ s.slot 15) :=
  ⟨⟨_, rfl, by decide, by decide⟩, ⟨_, rfl, by decide, by decide⟩, ⟨_, rfl, by decide, by decide⟩,
   ⟨_, rfl, by decide, by decide⟩⟩
theorem witness_ConfigurationIsFixedAtCreation :
    ∃ t, let s := atSlot (withTimer 15 every5) .scan 15 false
      step s = .next t ∧ (s.slot 15).alloc = true ∧ (t.slot 15).alloc = true :=
  ⟨_, rfl, by decide, by decide⟩
/-- The `DONE` of a firing of a NTIMES slot changes both. -/
theorem witness_CountdownAndCountWriters :
    ∃ t, let s := doneComes (timer .ntimes true 5 0 2)
      step s = .next t ∧ (s.slot 15).alloc = true ∧ (t.slot 15).alloc = true ∧
        (t.slot 15).remaining ≠ (s.slot 15).remaining ∧ (t.slot 15).count ≠ (s.slot 15).count :=
  ⟨_, rfl, by decide, by decide, by decide, by decide⟩
theorem witness_TriggerShadowWriters :
    ∃ t, let s := facing (armed true) [cmdWrite (encode .tstop)]
      step s = .next t ∧ ¬ s.Resets ∧ t.trig ≠ s.trig := ⟨_, rfl, by decide, by decide⟩
/-- The reset state with other values where they mean nothing. -/
def deadTwin : State :=
  { withTimer 3 { Slot.reset with period := 9, kind := .ntimes } with
    engine := ⟨.idle, 7, false, false, false⟩
    disp := ⟨false, 2, 1, true, 1⟩
    trig := ⟨false, false, 5⟩ }

/-- Two states that differ in a dead field of a FREE slot, `scan_idx`, a latch and `trig_period`. -/
theorem witness_DeadFieldsAreUnobservable :
    State.reset.Inv ∧ deadTwin.Inv ∧ State.reset.SameLive deadTwin ∧ deadTwin ≠ State.reset :=
  ⟨by decide, by decide,
    ⟨by decide, by decide, by decide, by decide, by decide, by decide, by decide, by decide, by decide,
      by decide⟩, by decide⟩
theorem witness_StepKeepsTheInvariants :
    ∃ t, let s := atSlot (withTimer 15 (timer .once true 1 1 1)) .scan 15 false
      s.Inv ∧ step s = .next t := ⟨_, by decide, rfl⟩
theorem witness_ResetFromAnyState :
    (facing (atSlot (withTimer 15 every5) .waitCb 15 true) [.rst]).schedule = .rst :: [] := by decide
theorem witness_NothingSurvivesReset :
    ∃ s t : State, s.Resets ∧ t.schedule = s.schedule ∧ t.out = s.out ∧ t.resets = s.resets ∧ s ≠ t :=
  ⟨facing State.reset [.rst], facing (atSlot (withTimer 15 every5) .waitCb 15 true) [.rst],
    by decide, rfl, rfl, rfl, by decide⟩

/-! A run for the statement on fairness: the table empty, the trigger running, and again and again a
pulse, a scan start and sixteen visits. -/

/-- The state of the run at place `k` of its period of 18. -/
def runState (k : Nat) : State :=
  { armed true with
    engine :=
      { phase := if k < 2 then .idle else .scan
        scanIdx := if k < 2 then 15 else Fin.ofNat 16 (k - 2)
        tickPend := k == 1, overrun := false, curLive := false } }

def runOf (n : Nat) : State := runState (n % 18)

/-- At place 0 a pulse arrives, elsewhere nothing does. -/
def runEnv (n : Nat) : List Event := if n % 18 = 0 then [.tick] else []

theorem runOf_step (k : Nat) (h : k < 18) :
    step ((runState k).arrive (if k = 0 then [.tick] else [])) = .next (runState ((k + 1) % 18)) := by
  have hall : ∀ k : Fin 18,
      nextIs (step ((runState k).arrive (if k.val = 0 then [.tick] else [])))
        (fun t => decide (t = runState ((k.val + 1) % 18))) = true := by decide
  have hk := hall ⟨k, h⟩
  revert hk
  simp only
  generalize step _ = o
  cases o <;> simp [nextIs]

theorem runOf_isRun : IsRun runOf runEnv := by
  intro n
  have h := runOf_step (n % 18) (Nat.mod_lt _ (by decide))
  have hm : (n + 1) % 18 = (n % 18 + 1) % 18 := by omega
  simp only [runOf, hm]
  exact h

theorem witness_RunningTriggerKeepsScanning :
    IsRun runOf runEnv ∧ EngineFair runOf runEnv ∧ TriggerFair runOf runEnv ∧ CallbacksReturn runOf ∧
      ∀ n, (runOf n).trig.armed = true ∧ (runOf n).trig.run = true := by
  refine ⟨runOf_isRun, ?_, ?_, ?_, fun n => ⟨rfl, rfl⟩⟩
  · intro n _
    refine ⟨18 * n + 1, by omega, .inl ?_⟩
    have : (18 * n + 1) % 18 = 1 := by omega
    simp [runEnv, this, runOf, State.arrive, runState, armed, State.reset]
  · intro n _
    refine ⟨18 * n, by omega, ?_⟩
    have : (18 * n) % 18 = 0 := by omega
    simp [runEnv, this, runOf, State.arrive, runState, armed, State.reset]
  · intro n h
    exfalso
    simp only [runOf, runState] at h
    split at h <;> cases h

end Sys2Proof.Tests
end

/-! ### What decodes is the word of its command (30_encoding.md R62, R66, R69) -/

section

namespace Sys2Proof

theorem decodeCreate_eq_ok {kind slot : Nat} {p : Bool} {i : Instr}
    (h : decodeCreate kind p slot = .ok i) : encode i = wordOf 1 kind p slot := by
  unfold decodeCreate at h
  split at h
  · cases h
  · next hslot =>
    obtain rfl : slot = 0 := not_not.1 hslot
    split at h <;> cases h <;> rfl

theorem decodeControl_eq_ok {kind : Nat} {p : Bool} {i j : Instr}
    (h : decodeControl kind p j = .ok i) : kind = 0 ∧ p = false ∧ i = j := by
  unfold decodeControl at h
  split at h
  · cases h
  · next hbits => cases h; simpa using hbits

theorem decodePlain_eq_ok {kind slot : Nat} {p : Bool} {i j : Instr}
    (h : decodePlain kind p slot j = .ok i) : kind = 0 ∧ p = false ∧ slot = 0 ∧ i = j := by
  unfold decodePlain at h
  split at h
  · cases h
  · next hbits => cases h; simpa using hbits

/-- The encoder writes back the fields a command was decoded from: a create by format C, a control
command by format S, every other by format Z (30_encoding.md R61). -/
theorem encode_of_decodeOp {op kind slot : Nat} {p : Bool} {i : Instr}
    (h : decodeOp op kind p slot = .ok i) : encode i = wordOf op kind p slot := by
  unfold decodeOp at h
  split at h
  case h_1 => exact decodeCreate_eq_ok h
  case h_2 | h_3 | h_4 | h_5 => obtain ⟨rfl, rfl, rfl⟩ := decodeControl_eq_ok h; rfl
  case h_6 | h_7 | h_8 | h_9 | h_10 | h_11 =>
    obtain ⟨rfl, rfl, rfl, rfl⟩ := decodePlain_eq_ok h; rfl
  case h_12 => cases h

/-- A word whose bits [31:16] and [7] are clear is made of its other fields (30_encoding.md R60). -/
theorem wordOf_fields {w : Word} (hhigh : fieldHigh w = 0) (hbit7 : fieldBit7 w = false) :
    wordOf (fieldOp w) (fieldKind w) (fieldP w) (fieldSlot w) = w := by
  have hw := toNat_eq_fields w
  rw [hhigh, hbit7] at hw
  have hsum : fieldOp w + 16 * fieldKind w + 64 * (fieldP w).toNat + 256 * fieldSlot w = w.toNat := by
    simpa using hw.symm
  rw [wordOf, hsum, BitVec.ofNat_toNat, BitVec.setWidth_eq]

theorem encode_of_decode {w : Word} {i : Instr} (h : decode w = .ok i) : encode i = w := by
  unfold decode at h
  split at h
  · cases h
  · next hhigh =>
    split at h
    · cases h
    · next hbit7 =>
      rw [encode_of_decodeOp h]
      exact wordOf_fields (not_not.1 hhigh) (Bool.not_eq_true _ ▸ hbit7)

end Sys2Proof

end

/-! ### What each operation adds to the observer's record (00_scope.md R5) -/

section

namespace Sys2Proof.Machine

/-! The operations that show nothing -/

@[simp] theorem State.create_out (s : State) (k : Kind) (p : Bool) : (s.create k p).out = s.out := by
  rcases s.create_cases k p with ⟨-, h⟩ | ⟨-, -, h⟩ | ⟨i, -, -, h⟩ <;> rw [h] <;> rfl

theorem State.onValidSlot_out (s : State) (n : Nat) {f : SlotId → State → State}
    (hf : ∀ i, (f i s).out = s.out) : (s.onValidSlot n f).out = s.out := by
  rcases s.onValidSlot_cases n f with ⟨i, -, -, h⟩ | ⟨-, h⟩
  · rw [h, State.setStatus_out, hf]
  · rw [h, State.setStatus_out]

@[simp] theorem State.deleteSlot_out (s : State) (i : SlotId) : (s.deleteSlot i).out = s.out := by
  rw [State.deleteSlot_eq]; rfl

@[simp] theorem State.tickEvent_out (s : State) : s.tickEvent.out = s.out := by
  rw [State.tickEvent_eq]; rfl

@[simp] theorem State.dispatchReturn_out (s : State) : s.dispatchReturn.out = s.out := by
  rw [State.dispatchReturn_eq]

@[simp] theorem State.regWrite_out (s : State) (v : Word) (r : Reg) :
    (s.regWrite v r).out = s.out := by
  rw [State.regWrite_eq]

@[simp] theorem State.resetBlock_out (s : State) : s.resetBlock.out = s.out := rfl

/-! The engine's turn and the commands -/

/-- A slot taking part in the scan is ENABLED (10_state.md R12). -/
theorem Slot.state_eq_enabled_iff {x : Slot} : x.state = .enabled ↔ x.live = true := by
  unfold Slot.state Slot.live
  cases x.alloc <;> cases x.enabled <;> decide

/-- The engine shows one thing only: the dispatch of the visited slot, when that one is ENABLED and
at its last tick (42_tick_scan.md R102, R104). -/
theorem State.engineTurn_out_cases (s : State) :
    s.engineTurn.out = s.out ∨
    (s.engine.phase = .scan ∧ (s.slot s.engine.scanIdx).state = .enabled ∧
      (s.slot s.engine.scanIdx).remaining = 1 ∧
      s.engineTurn.out = (s.slot s.engine.scanIdx).dispatchOf s.engine.scanIdx :: s.out) := by
  rcases s.engineTurn_cases with ⟨-, -, h⟩ | ⟨hscan, h⟩ | ⟨-, h⟩
  · exact .inl (by rw [h]; rfl)
  · rcases s.visit_cases with ⟨-, hv⟩ | ⟨-, -, hv⟩ | ⟨hlive, hrem, hv⟩
    · exact .inl (by rw [h, hv]; rfl)
    · exact .inl (by rw [h, hv]; rfl)
    · refine .inr ⟨hscan, Slot.state_eq_enabled_iff.2 hlive, sub_eq_zero.1 hrem, ?_⟩
      rw [h, hv, State.dispatch, State.setSlot_slot_self]
      rfl
  · exact .inl (by rw [h])

/-- Of the commands only the four of the trigger show anything, each its own request
(43_trigger_control.md R120 to R124); `TSTART` and `TRESTART` only after an arm. -/
theorem exec_out_cases {i : Instr} {s t : State} (h : exec i s = .next t) :
    t.out = s.out ∨
    (i = .tarm ∧ t.out = .armRequest s.args.period (Config.trigOk s.args.period) :: s.out) ∨
    (i = .tstart ∧ s.trig.armed = true ∧ t.out = .startRequest :: s.out) ∨
    (i = .tstop ∧ t.out = .stopRequest :: s.out) ∨
    (i = .trestart ∧ s.trig.armed = true ∧ t.out = .restartRequest :: s.out) := by
  cases i with
  | createOnce p => cases h; exact .inl (s.create_out _ p)
  | createForever p => cases h; exact .inl (s.create_out _ p)
  | createN p => cases h; exact .inl (s.create_out _ p)
  | delete n => cases h; exact .inl (s.onValidSlot_out n s.deleteSlot_out)
  | enable n => cases h; exact .inl (s.onValidSlot_out n fun _ => rfl)
  | disable n => cases h; exact .inl (s.onValidSlot_out n fun _ => rfl)
  | restart n => cases h; exact .inl (s.onValidSlot_out n fun _ => rfl)
  | tick => cases h; exact .inl s.tickEvent_out
  | done =>
    simp only [exec, execDone] at h
    split at h <;> cases h
    · exact .inl s.dispatchReturn_out
    · exact .inl rfl
  | tarm =>
    simp only [exec, execTarm] at h
    split at h <;> cases h <;> exact .inr (.inl ⟨rfl, rfl⟩)
  | tstart =>
    simp only [exec, execTstart] at h
    split at h <;> cases h
    · next harmed => exact .inr (.inr (.inl ⟨rfl, harmed, rfl⟩))
    · exact .inl rfl
  | tstop => cases h; exact .inr (.inr (.inr (.inl ⟨rfl, rfl⟩)))
  | trestart =>
    simp only [exec, execTrestart] at h
    split at h <;> cases h
    · next harmed => exact .inr (.inr (.inr (.inr ⟨rfl, harmed, rfl⟩)))
    · exact .inl rfl

/-! A step -/

/-- What a step can show, without reference to the events that show nothing: a firing in the
engine's turn, the answer of a read, or what a command shows. -/
theorem step_out_cases {s t : State} (h : step s = .next t) :
    t.out = s.out ∨
    (s.EngineMoves ∧ s.engine.phase = .scan ∧ (s.slot s.engine.scanIdx).state = .enabled ∧
      (s.slot s.engine.scanIdx).remaining = 1 ∧
      t.out = (s.slot s.engine.scanIdx).dispatchOf s.engine.scanIdx :: s.out) ∨
    (∃ off v, s.schedule.head? = some (.read off .word) ∧ t.out = .readData off v :: s.out) ∨
    (∃ i rest, s.Issues i ∧ exec i { s with schedule := rest } = .next t) := by
  rcases step_next_cases h with ⟨hs, rfl⟩ | ⟨rest, ⟨hs, rfl⟩ | ⟨-, -, -, rfl⟩ | ⟨r, hs, rfl⟩ |
    ⟨r, v, -, -, rfl⟩ | ⟨w, e, -, -, rfl⟩ | ⟨w, i, hs, hdecode, hexec⟩ | ⟨-, rfl⟩⟩
  · exact s.engineTurn_out_cases.imp_right fun hfire => .inl ⟨.inl (by rw [hs]; rfl), hfire⟩
  · exact (State.engineTurn_out_cases { s with schedule := rest }).imp_right
      fun hfire => .inl ⟨.inr (by rw [hs]; rfl), hfire⟩
  · exact .inl (State.tickEvent_out _)
  · exact .inr (.inr (.inl ⟨r.offset, s.regRead r, by rw [hs]; rfl, rfl⟩))
  · exact .inl (State.regWrite_out _ v r)
  · exact .inl rfl
  · have hissues : s.Issues i := by rw [State.Issues, hs, encode_of_decode hdecode]; rfl
    exact .inr (.inr (.inr ⟨i, rest, hissues, hexec⟩))
  · exact .inl rfl

/-- Settles O31: what the engine, a read and each command show, put together. -/
theorem outputsHaveTheirCause : Obligations.OutputsHaveTheirCause := by
  intro s t h
  rcases step_out_cases h with hsame | ⟨hturn, hscan, hstate, hrem, hout⟩ | ⟨off, v, hread, hout⟩ |
    ⟨i, rest, hissues, hexec⟩
  · exact .inl hsame
  · exact .inr ⟨_, hout, hturn, hscan, rfl, hstate, hrem, rfl, rfl, rfl⟩
  · exact .inr ⟨_, hout, hread⟩
  · rcases exec_out_cases hexec with hsame | ⟨rfl, hout⟩ | ⟨rfl, harmed, hout⟩ | ⟨rfl, hout⟩ |
      ⟨rfl, harmed, hout⟩
    · exact .inl hsame
    · exact .inr ⟨_, hout, hissues, rfl, rfl⟩
    · exact .inr ⟨_, hout, hissues, harmed⟩
    · exact .inr ⟨_, hout, hissues⟩
    · exact .inr ⟨_, hout, hissues, harmed⟩

end Sys2Proof.Machine

end

/-! ### The invariants of the block (10_state.md R29) -/

section

namespace Sys2Proof.Machine

/-! One slot at a time -/

theorem Slot.live_iff {x : Slot} : x.live = true ↔ x.alloc = true ∧ x.enabled = true := by
  simp [Slot.live]

/-- The engine waits for the callback of slot `i`, which was not deleted since: the only time an
occupied slot may hold a countdown of 0 (10_state.md R29 item 4). -/
def Engine.Awaits (e : Engine) (i : SlotId) : Prop :=
  e.phase = .waitCb ∧ e.scanIdx = i ∧ e.curLive = true

/-- Items 1 to 4 of 10_state.md R29 for a slot `x` that stands, or is to be written, at index `i`
while the engine is `e`. -/
def Slot.SoundAt (x : Slot) (e : Engine) (i : SlotId) : Prop :=
  (x.enabled = true → x.alloc = true) ∧
  (x.alloc = true →
    1 ≤ x.period.toNat ∧ x.remaining.toNat ≤ x.period.toNat ∧
    (x.remaining = 0 → e.Awaits i) ∧
    (x.kind = .ntimes → 1 ≤ x.count.toInt ∧ x.count.toInt ≤ 2 ^ 31 - 1))

theorem State.slotInv_iff {s : State} {i : SlotId} :
    s.SlotInv i ↔ (s.slot i).SoundAt s.engine i := Iff.rfl

/-- A word read as unsigned is at least 1 iff it is not 0. -/
theorem one_le_toNat_iff {v : Word} : 1 ≤ v.toNat ↔ v ≠ 0 := by
  constructor <;> bv_omega

/-- A word read as signed is at most 2^31 - 1. -/
theorem word_toInt_le (v : Word) : v.toInt ≤ 2 ^ 31 - 1 :=
  Int.le_sub_one_of_lt BitVec.toInt_lt

namespace Slot.SoundAt

variable {x : Slot} {e : Engine} {i : SlotId}

/-- Only the countdown of 0 looks at the engine. -/
theorem of_awaits_imp {f : Engine} (h : x.SoundAt e i) (hawaits : e.Awaits i → f.Awaits i) :
    x.SoundAt f i := by
  obtain ⟨henabled, halloc⟩ := h
  refine ⟨henabled, fun ha => ?_⟩
  obtain ⟨hperiod, hle, hzero, hcount⟩ := halloc ha
  exact ⟨hperiod, hle, fun hr => hawaits (hzero hr), hcount⟩

theorem of_free (halloc : x.alloc = false) (henabled : x.enabled = false) : x.SoundAt e i :=
  ⟨by simp [henabled], by simp [halloc]⟩

theorem setEnabled (b : Bool) (ha : x.alloc = true) (h : x.SoundAt e i) :
    Slot.SoundAt { x with enabled := b } e i :=
  ⟨fun _ => ha, h.2⟩

/-- A reloaded countdown is a period, so it is not 0. -/
theorem reload (f : Engine) (h : x.SoundAt e i) : x.reload.SoundAt f i := by
  obtain ⟨henabled, halloc⟩ := h
  refine ⟨henabled, fun ha => ?_⟩
  obtain ⟨hperiod, -, -, hcount⟩ := halloc ha
  exact ⟨hperiod, le_rfl, fun hr => absurd hr (one_le_toNat_iff.1 hperiod), hcount⟩

theorem createdSlot {k : Kind} {p : Bool} {a : Args} (hok : createOperandsOk k a = true) :
    (createdSlot k p a).SoundAt e i := by
  obtain ⟨hperiod, hcount⟩ := createOperandsOk_iff.1 hok
  refine ⟨fun _ => rfl, fun _ => ⟨one_le_toNat_iff.2 hperiod, le_rfl,
    fun hr => absurd hr hperiod, ?_⟩⟩
  rintro rfl
  exact ⟨hcount rfl, word_toInt_le _⟩

/-- The post-fire action reloads the countdown of a slot it does not free (42_tick_scan.md R106). -/
theorem postFire (f : Engine) (h : x.SoundAt e i) : x.postFire.SoundAt f i := by
  rcases x.postFire_cases with ⟨-, hx⟩ | ⟨-, hpos, hx⟩ | ⟨-, -, hx⟩ | ⟨-, hx⟩ <;> rw [hx]
  · exact h.reload f
  · obtain ⟨henabled, halloc⟩ := h.reload f
    refine ⟨henabled, fun ha => ?_⟩
    obtain ⟨hperiod, hle, hzero, -⟩ := halloc ha
    exact ⟨hperiod, hle, hzero, fun _ => ⟨hpos, word_toInt_le _⟩⟩
  · exact of_free rfl rfl
  · exact of_free rfl rfl

/-- Where no occupied slot has a countdown of 0, one visit takes none below 0 (42_tick_scan.md
R102). -/
theorem countDown {f : Engine} (h : x.SoundAt e i) (hlive : x.live = true) (hscan : e.phase = .scan)
    (hzero : x.remaining - 1 = 0 → f.Awaits i) : x.countDown.SoundAt f i := by
  obtain ⟨ha, -⟩ := Slot.live_iff.1 hlive
  obtain ⟨hperiod, hle, hspent, hcount⟩ := h.2 ha
  have hne : x.remaining ≠ 0 := fun hr => by
    obtain ⟨hwait, -⟩ := hspent hr
    rw [hscan] at hwait
    cases hwait
  have hpos := one_le_toNat_iff.2 hne
  refine ⟨fun _ => ha, fun _ => ⟨hperiod, ?_, hzero, hcount⟩⟩
  change (x.remaining - 1).toNat ≤ _
  rw [BitVec.toNat_sub_of_le (by simpa [BitVec.le_def] using hpos)]
  exact (Nat.sub_le _ _).trans hle

end Slot.SoundAt

/-! The operations -/

namespace State.Inv

variable {s : State}

theorem sound (h : s.Inv) (i : SlotId) : (s.slot i).SoundAt s.engine i := h.1 i

theorem finishCreate (h : s.Inv) {v : Word} (c : ResultCode)
    (hv : v = noSlot ∨ v.toNat ≤ 15) : (s.finishCreate v c).Inv := by
  obtain ⟨hslots, hdisp, htrig, -⟩ := h
  exact ⟨hslots, hdisp, htrig, hv⟩

/-- Writing a sound slot keeps the invariants, unless it frees the slot whose callback is awaited. -/
theorem setSlot (h : s.Inv) {i : SlotId} {x : Slot} (hx : x.SoundAt s.engine i)
    (halloc : s.engine.curLive = true → s.engine.scanIdx = i → x.alloc = true) :
    (s.setSlot i x).Inv := by
  obtain ⟨hslots, ⟨hvalid, hlive⟩, htrig, hresult⟩ := h
  refine ⟨fun j => ?_, ⟨hvalid, fun hc => ⟨(hlive hc).1, ?_⟩⟩, htrig, hresult⟩
  · rw [State.slotInv_iff, State.setSlot_slot]
    split
    · next hj => exact hj ▸ hx
    · exact hslots j
  · rw [State.setSlot_slot, State.setSlot_engine]
    split
    · next hi => exact halloc hc hi
    · exact (hlive hc).2

/-- Away from the invariants of the slots, an engine that awaits no callback of an occupied slot
only has to agree with `disp_valid` (10_state.md R29 item 6). -/
theorem of_curLive_false {t : State} (hslots : ∀ i, (t.slot i).SoundAt t.engine i)
    (hvalid : t.disp.valid = true ↔ t.engine.phase = .waitCb) (hcur : t.engine.curLive = false)
    (htrig : t.trig.run = true → t.trig.armed = true) (hresult : t.ResultInv) : t.Inv :=
  ⟨hslots, ⟨hvalid, by simp [hcur]⟩, htrig, hresult⟩

theorem create (h : s.Inv) (k : Kind) (p : Bool) : (s.create k p).Inv := by
  rcases s.create_cases k p with ⟨-, hs⟩ | ⟨-, -, hs⟩ | ⟨i, hok, -, hs⟩ <;> rw [hs]
  · exact h.finishCreate _ (.inl rfl)
  · exact h.finishCreate _ (.inl rfl)
  · refine (h.setSlot (.createdSlot hok) fun _ _ => rfl).finishCreate _ (.inr ?_)
    rw [BitVec.toNat_ofNat]
    omega

theorem onValidSlot (h : s.Inv) (n : Nat) {f : SlotId → State → State}
    (hf : ∀ i, (s.slot i).alloc = true → (f i s).Inv) : (s.onValidSlot n f).Inv := by
  rcases s.onValidSlot_cases n f with ⟨i, -, ha, hs⟩ | ⟨-, hs⟩ <;> rw [hs]
  · exact hf i ha
  · exact h

/-- Freeing the awaited slot clears `cur_live` with it (41_slot_control.md R91). -/
theorem deleteSlot (h : s.Inv) (i : SlotId) : (s.deleteSlot i).Inv := by
  obtain ⟨hslots, ⟨hvalid, hlive⟩, htrig, hresult⟩ := h
  rw [State.deleteSlot_eq]
  refine ⟨fun j => ?_, ⟨hvalid, fun hc => ?_⟩, htrig, hresult⟩
  · rw [State.slotInv_iff, State.setEngine_slot, State.setSlot_slot]
    split
    · exact .of_free rfl rfl
    · next hj =>
      refine Slot.SoundAt.of_awaits_imp (hslots j) ?_
      rintro ⟨hwait, rfl, hcur⟩
      exact ⟨hwait, rfl, by simp [hcur, hj]⟩
  · simp only [State.setEngine_engine, Bool.and_eq_true, Bool.not_eq_true',
      decide_eq_false_iff_not, not_and] at hc
    obtain ⟨hcur, hother⟩ := hc
    obtain ⟨hwait, ha⟩ := hlive hcur
    refine ⟨hwait, ?_⟩
    rwa [State.setEngine_slot, State.setEngine_engine,
      State.setSlot_slot_of_ne _ _ (hother hwait)]

theorem tickEvent (h : s.Inv) : s.tickEvent.Inv := by
  rw [State.tickEvent_eq]
  exact h

/-- With the dispatch withdrawn no slot is left with a countdown of 0 (42_tick_scan.md R105). -/
theorem dispatchReturn (h : s.Inv) : s.dispatchReturn.Inv := by
  obtain ⟨hslots, -, htrig, hresult⟩ := h
  rw [State.dispatchReturn_eq]
  refine of_curLive_false (fun j => ?_) ?_ (Engine.advance_curLive _) htrig hresult
  · change (s.completeFiring.slot j).SoundAt _ j
    rcases s.completeFiring_cases with ⟨hcur, hs⟩ | ⟨-, hs⟩ <;> rw [hs]
    · refine Slot.SoundAt.of_awaits_imp (hslots j) ?_
      rintro ⟨-, -, hcur'⟩
      rw [hcur] at hcur'
      cases hcur'
    · rw [State.setSlot_slot]
      split
      · next hj => subst hj; exact Slot.SoundAt.postFire _ (hslots _)
      · next hj => exact Slot.SoundAt.of_awaits_imp (hslots j) fun hw => absurd hw.2.1.symm hj
  · exact iff_of_false Bool.false_ne_true (Engine.advance_phase_ne _)

theorem curLive_eq_false (h : s.Inv) (hphase : s.engine.phase ≠ .waitCb) :
    s.engine.curLive = false := by
  obtain ⟨-, ⟨-, hlive⟩, -⟩ := h
  exact Bool.eq_false_iff.2 fun hc => hphase (hlive hc).1

theorem valid_eq_false (h : s.Inv) (hphase : s.engine.phase ≠ .waitCb) :
    s.disp.valid = false := by
  obtain ⟨-, ⟨hvalid, -⟩, -⟩ := h
  exact Bool.eq_false_iff.2 fun hv => hphase (hvalid.1 hv)

/-- While no callback is outstanding the engine may move within IDLE and SCAN (10_state.md R29
items 4 and 6). -/
theorem setEngine (h : s.Inv) {e : Engine} (hphase : s.engine.phase ≠ .waitCb)
    (he : e.phase ≠ .waitCb) (hcur : e.curLive = s.engine.curLive) : (s.setEngine e).Inv := by
  have hvalid := h.valid_eq_false hphase
  have hlive := h.curLive_eq_false hphase
  obtain ⟨hslots, -, htrig, hresult⟩ := h
  refine of_curLive_false (fun j => ?_) ?_ (hcur.trans hlive) htrig hresult
  · exact Slot.SoundAt.of_awaits_imp (hslots j) fun hw => absurd hw.1 hphase
  · exact iff_of_false (by rw [State.setEngine_disp, hvalid]; exact Bool.false_ne_true) he

theorem visit (h : s.Inv) (hscan : s.engine.phase = .scan) : s.visit.Inv := by
  have hphase : s.engine.phase ≠ .waitCb := by rw [hscan]; exact nofun
  have hcur := h.curLive_eq_false hphase
  have hadvance := Engine.advance_phase_ne s.engine
  rcases s.visit_cases with ⟨-, hs⟩ | ⟨hlive, hne, hs⟩ | ⟨hlive, -, hs⟩ <;> rw [hs]
  · exact h.setEngine hphase hadvance (Engine.advance_curLive _)
  · have hx := (h.sound _).countDown (f := s.engine) hlive hscan fun hr => absurd hr hne
    have hcounted := h.setSlot hx fun hc => by rw [hcur] at hc; cases hc
    exact hcounted.setEngine hphase hadvance (Engine.advance_curLive _)
  · obtain ⟨hslots, -, htrig, hresult⟩ := h
    refine ⟨fun j => ?_, ⟨iff_of_true rfl rfl, fun _ => ⟨rfl, ?_⟩⟩, htrig, hresult⟩
    · change Slot.SoundAt ((s.setSlot s.engine.scanIdx _).slot j) _ j
      rw [State.setSlot_slot]
      split
      · next hj =>
        subst hj
        exact Slot.SoundAt.countDown (hslots _) hlive hscan fun _ => ⟨rfl, rfl, rfl⟩
      · exact Slot.SoundAt.of_awaits_imp (hslots j) fun hw => absurd hw.1 hphase
    · change ((s.setSlot s.engine.scanIdx _).slot s.engine.scanIdx).alloc = true
      rw [State.setSlot_slot_self]
      exact (Slot.live_iff.1 hlive).1

theorem engineTurn (h : s.Inv) : s.engineTurn.Inv := by
  rcases s.engineTurn_cases with ⟨hidle, -, hs⟩ | ⟨hscan, hs⟩ | ⟨-, hs⟩ <;> rw [hs]
  · exact h.setEngine (by rw [hidle]; exact nofun) nofun rfl
  · exact h.visit hscan
  · exact h

theorem setTrig (h : s.Inv) {g : Trigger} (hg : g.run = true → g.armed = true) :
    (s.setTrig g).Inv := by
  obtain ⟨hslots, hdisp, -, hresult⟩ := h
  exact ⟨hslots, hdisp, hg, hresult⟩

theorem regWrite (h : s.Inv) (v : Word) (r : Reg) : (s.regWrite v r).Inv := by
  rw [State.regWrite_eq]
  exact h

theorem resetBlock (s : State) : s.resetBlock.Inv := by
  refine of_curLive_false (fun i => ?_) (iff_of_false nofun nofun) rfl nofun (.inl rfl)
  rw [State.resetBlock_slot]
  exact .of_free rfl rfl

/-! A command, and a step -/

theorem of_exec (h : s.Inv) {i : Instr} {t : State} (hexec : exec i s = .next t) : t.Inv := by
  cases i with
  | createOnce p | createForever p | createN p => cases hexec; exact h.create _ p
  | delete n => cases hexec; exact h.onValidSlot n fun i _ => h.deleteSlot i
  | enable n | disable n =>
    cases hexec
    exact h.onValidSlot n fun i ha =>
      h.setSlot (Slot.SoundAt.setEnabled _ ha (h.sound i)) fun _ _ => ha
  | restart n =>
    cases hexec
    exact h.onValidSlot n fun i ha => h.setSlot ((h.sound i).reload _) fun _ _ => ha
  | tick => cases hexec; exact h.tickEvent
  | done =>
    simp only [exec, execDone] at hexec
    split at hexec <;> cases hexec
    · exact h.dispatchReturn
    · exact h
  | tarm =>
    simp only [exec, execTarm] at hexec
    split at hexec <;> cases hexec
    · exact h.setTrig fun _ => rfl
    · exact h
  | tstop => cases hexec; exact h.setTrig nofun
  | tstart | trestart =>
    simp only [exec, execTstart, execTrestart] at hexec
    split at hexec <;> cases hexec
    · next harmed => exact h.setTrig fun _ => harmed
    · exact h

end State.Inv

/-- Settles O53: case by case over what a step can be; the schedule plays no part in the
invariants. -/
theorem stepKeepsTheInvariants : Obligations.StepKeepsTheInvariants := by
  intro s t h hstep
  rcases step_next_cases hstep with ⟨-, rfl⟩ | ⟨rest, hevent⟩
  · exact h.engineTurn
  · have h' : State.Inv { s with schedule := rest } := h
    rcases hevent with ⟨-, rfl⟩ | ⟨-, -, -, rfl⟩ | ⟨r, -, rfl⟩ | ⟨r, v, -, -, rfl⟩ |
      ⟨w, e, -, -, rfl⟩ | ⟨w, i, -, -, hexec⟩ | ⟨-, rfl⟩
    · exact h'.engineTurn
    · exact h'.tickEvent
    · exact h'
    · exact h'.regWrite v r
    · exact h'
    · exact h'.of_exec hexec
    · exact State.Inv.resetBlock _

/-- Settles O54: after reset every slot is FREE and no dispatch is outstanding. -/
theorem resetMeetsTheInvariants : Obligations.ResetMeetsTheInvariants := by
  refine State.Inv.of_curLive_false (fun i => ?_) (iff_of_false nofun nofun) rfl nofun (.inl rfl)
  rw [State.reset_slot]
  exact .of_free rfl rfl

end Sys2Proof.Machine

end

/-! ### States that differ in dead fields only (10_state.md R19, 93_implementation_defined.md V2) -/

section

namespace Sys2Proof.Machine

/-! The pieces of the relation -/

/-- The engines agree but for `scan_idx` while IDLE (10_state.md R22). -/
abbrev Engine.SameLive (e f : Engine) : Prop :=
  e = { f with scanIdx := e.scanIdx } ∧ (e.phase ≠ .idle → e.scanIdx = f.scanIdx)

/-- The trigger shadows agree but for the period while unarmed (10_state.md R28). -/
abbrev Trigger.SameLive (g k : Trigger) : Prop :=
  g = { k with period := g.period } ∧ (g.armed = true → g.period = k.period)

theorem Slot.SameLive.refl (x : Slot) : x.SameLive x := ⟨rfl, rfl, fun _ => rfl⟩

theorem Slot.SameLive.of_eq {x y : Slot} (h : x = y) : x.SameLive y := h ▸ .refl x

/-- Two FREE slots differ in dead fields only. -/
theorem Slot.SameLive.free (x y : Slot) : x.free.SameLive y.free := ⟨rfl, rfl, nofun⟩

theorem Slot.SameLive.live_eq {x y : Slot} (h : x.SameLive y) : x.live = y.live := by
  obtain ⟨halloc, henabled, -⟩ := h
  rw [Slot.live, Slot.live, halloc, henabled]

theorem Engine.SameLive.of_eq {e f : Engine} (h : e = f) : e.SameLive f := by
  subst h; exact ⟨rfl, fun _ => rfl⟩

theorem Engine.SameLive.eq {e f : Engine} (h : e.SameLive f) (hphase : e.phase ≠ .idle) :
    e = f := by
  obtain ⟨he, hidx⟩ := h
  rw [he, hidx hphase]

theorem Trigger.SameLive.setRun {g k : Trigger} (h : g.SameLive k) (b : Bool) :
    Trigger.SameLive { g with run := b } { k with run := b } := by
  obtain ⟨hg, hperiod⟩ := h
  refine ⟨?_, hperiod⟩
  rw [hg]

namespace State.SameLive

variable {s t : State}

theorem refl (s : State) : s.SameLive s :=
  ⟨fun _ => .refl _, ⟨rfl, fun _ => rfl⟩, ⟨rfl, fun _ => rfl⟩, rfl, rfl, rfl, ⟨rfl, fun _ => rfl⟩,
    rfl, rfl, rfl⟩

theorem slot (h : s.SameLive t) (i : SlotId) : (s.slot i).SameLive (t.slot i) := h.1 i

theorem engine (h : s.SameLive t) : s.engine.SameLive t.engine := h.2.1

theorem args (h : s.SameLive t) : s.args = t.args := by
  obtain ⟨-, -, -, hargs, -⟩ := h
  exact hargs

theorem trig (h : s.SameLive t) : s.trig.SameLive t.trig := by
  obtain ⟨-, -, -, -, -, -, htrig, -⟩ := h
  exact htrig

theorem setStatus (h : s.SameLive t) (c : ResultCode) :
    (s.setStatus c).SameLive (t.setStatus c) := by
  obtain ⟨hslots, hengine, hdisp, hargs, -, hrest⟩ := h
  exact ⟨hslots, hengine, hdisp, hargs, rfl, hrest⟩

theorem finishCreate (h : s.SameLive t) (v : Word) (c : ResultCode) :
    (s.finishCreate v c).SameLive (t.finishCreate v c) := by
  obtain ⟨hslots, hengine, hdisp, hargs, -, -, hrest⟩ := h
  exact ⟨hslots, hengine, hdisp, hargs, rfl, rfl, hrest⟩

theorem emit (h : s.SameLive t) (o : Output) : (s.emit o).SameLive (t.emit o) := by
  obtain ⟨hslots, hengine, hdisp, hargs, hstatus, hresult, htrig, hschedule, hout, hresets⟩ := h
  exact ⟨hslots, hengine, hdisp, hargs, hstatus, hresult, htrig, hschedule,
    congrArg (o :: ·) hout, hresets⟩

theorem setSchedule (h : s.SameLive t) (es : List Event) :
    State.SameLive { s with schedule := es } { t with schedule := es } := by
  obtain ⟨hslots, hengine, hdisp, hargs, hstatus, hresult, htrig, -, hrest⟩ := h
  exact ⟨hslots, hengine, hdisp, hargs, hstatus, hresult, htrig, rfl, hrest⟩

theorem setArgs (h : s.SameLive t) (a : Args) :
    State.SameLive { s with args := a } { t with args := a } := by
  obtain ⟨hslots, hengine, hdisp, -, hrest⟩ := h
  exact ⟨hslots, hengine, hdisp, rfl, hrest⟩

theorem setEngine (h : s.SameLive t) {e f : Engine} (he : e.SameLive f) :
    (s.setEngine e).SameLive (t.setEngine f) := by
  obtain ⟨hslots, -, hrest⟩ := h
  exact ⟨hslots, he, hrest⟩

theorem setTrig (h : s.SameLive t) {g k : Trigger} (hg : g.SameLive k) :
    (s.setTrig g).SameLive (t.setTrig k) := by
  obtain ⟨hslots, hengine, hdisp, hargs, hstatus, hresult, -, hrest⟩ := h
  exact ⟨hslots, hengine, hdisp, hargs, hstatus, hresult, hg, hrest⟩

theorem setSlot (h : s.SameLive t) (i : SlotId) {x y : Slot} (hx : x.SameLive y) :
    (s.setSlot i x).SameLive (t.setSlot i y) := by
  obtain ⟨hslots, hrest⟩ := h
  refine ⟨fun j => ?_, hrest⟩
  rw [State.setSlot_slot, State.setSlot_slot]
  split
  · exact hx
  · exact hslots j

/-! What is read of the state -/

theorem alloc_eq (h : s.SameLive t) (i : SlotId) : (s.slot i).alloc = (t.slot i).alloc :=
  (h.slot i).1

theorem slot_eq (h : s.SameLive t) {i : SlotId} (ha : (s.slot i).alloc = true) :
    s.slot i = t.slot i := (h.slot i).2.2 ha

theorem firstFree_eq (h : s.SameLive t) : s.firstFree = t.firstFree := by
  simp only [State.firstFree, h.alloc_eq]

theorem validSlot_eq (h : s.SameLive t) (n : Nat) : s.validSlot n = t.validSlot n := by
  simp only [State.validSlot, h.alloc_eq]

theorem phase_eq (h : s.SameLive t) : s.engine.phase = t.engine.phase := by
  rw [h.engine.1]

theorem tickPend_eq (h : s.SameLive t) : s.engine.tickPend = t.engine.tickPend := by
  rw [h.engine.1]

theorem overrun_eq (h : s.SameLive t) : s.engine.overrun = t.engine.overrun := by
  rw [h.engine.1]

theorem armed_eq (h : s.SameLive t) : s.trig.armed = t.trig.armed := by
  rw [h.trig.1]

theorem run_eq (h : s.SameLive t) : s.trig.run = t.trig.run := by
  rw [h.trig.1]

/-- A view of the latches shows the same, which is 0 while they mean nothing (10_state.md R27). -/
theorem whileDispatching_eq (h : s.SameLive t) (view : DispLatch → Word) :
    s.whileDispatching (view s.disp) = t.whileDispatching (view t.disp) := by
  obtain ⟨-, -, ⟨hvalid, hdisp⟩, -⟩ := h
  unfold State.whileDispatching
  rw [← hvalid]
  split
  · next hv => rw [hdisp hv]
  · rfl

theorem regRead_eq (h : s.SameLive t) (r : Reg) : s.regRead r = t.regRead r := by
  obtain ⟨-, -, ⟨hvalid, -⟩, hargs, hstatus, hresult, -⟩ := id h
  cases r with
  | cmd | reserved => rfl
  | status => exact congrArg ResultCode.code hstatus
  | result => exact hresult
  | argPeriod | argCount | argCb | argParam => simp only [State.regRead, hargs]
  | dispInfo =>
    exact h.whileDispatching_eq fun d =>
      bitAt 31 true ||| bitAt 8 d.hasParam ||| BitVec.ofNat 32 d.slot.val
  | dispCb => exact h.whileDispatching_eq DispLatch.cb
  | dispParam => exact h.whileDispatching_eq DispLatch.param
  | flags =>
    simp only [State.regRead, State.flagsWord, State.busy, h.phase_eq, h.tickPend_eq, h.overrun_eq,
      hvalid, h.armed_eq, h.run_eq]

/-! The operations -/

theorem create (h : s.SameLive t) (k : Kind) (p : Bool) :
    (s.create k p).SameLive (t.create k p) := by
  unfold State.create
  rw [← h.args, ← h.firstFree_eq]
  split
  · split
    · exact (h.setSlot _ (.refl _)).finishCreate _ _
    · exact h.finishCreate _ _
  · exact h.finishCreate _ _

/-- A control command works on the same slot, an occupied one, which the two states hold alike. -/
theorem onValidSlot (h : s.SameLive t) (n : Nat) {f : SlotId → State → State}
    (hf : ∀ i, s.slot i = t.slot i → (f i s).SameLive (f i t)) :
    (s.onValidSlot n f).SameLive (t.onValidSlot n f) := by
  unfold State.onValidSlot
  rw [← h.validSlot_eq]
  cases hv : s.validSlot n with
  | none => exact h.setStatus _
  | some i =>
    obtain ⟨-, ha⟩ := State.validSlot_eq_some.1 hv
    exact (hf i (h.slot_eq ha)).setStatus _

/-- Outside IDLE the engines are equal, and in IDLE no slot is under dispatch. -/
theorem deleteSlot (h : s.SameLive t) (i : SlotId) :
    (s.deleteSlot i).SameLive (t.deleteSlot i) := by
  have hfreed := h.setSlot i (.free (s.slot i) (t.slot i))
  unfold State.deleteSlot
  by_cases hidle : s.engine.phase = .idle
  · rw [if_neg (by simp [hidle]), if_neg (by simp [← h.phase_eq, hidle])]
    exact hfreed
  · rw [← h.engine.eq hidle]
    split
    · exact hfreed.setEngine (.of_eq rfl)
    · exact hfreed

theorem tickEvent (h : s.SameLive t) : s.tickEvent.SameLive t.tickEvent := by
  obtain ⟨heq, hidx⟩ := h.engine
  rw [State.tickEvent_eq, State.tickEvent_eq]
  refine h.setEngine ⟨?_, hidx⟩
  rw [heq]

theorem scanStart (h : s.SameLive t) : s.scanStart.SameLive t.scanStart := by
  refine h.setEngine (.of_eq ?_)
  rw [h.engine.1]

/-- A firing slot is occupied, so the latches take the same copy (42_tick_scan.md R104). -/
theorem dispatch (h : s.SameLive t) (hengine : s.engine = t.engine) {i : SlotId}
    (hslot : s.slot i = t.slot i) : (s.dispatch i).SameLive (t.dispatch i) := by
  obtain ⟨hslots, -, -, hargs, hstatus, hresult, htrig, hschedule, hout, hresets⟩ := h
  unfold State.dispatch
  rw [← hengine, ← hslot, ← hout]
  exact ⟨hslots, Engine.SameLive.of_eq rfl, ⟨rfl, fun _ => rfl⟩, hargs, hstatus, hresult,
    htrig, hschedule, rfl, hresets⟩

theorem visit (h : s.SameLive t) (hscan : s.engine.phase = .scan) : s.visit.SameLive t.visit := by
  have hengine := h.engine.eq (by rw [hscan]; exact nofun)
  unfold State.visit
  dsimp only
  rw [← hengine, ← (h.slot _).live_eq]
  split
  · next hlive =>
    have hslot := h.slot_eq (Slot.live_iff.1 hlive).1
    have hcounted := h.setSlot s.engine.scanIdx (.refl (s.slot s.engine.scanIdx).countDown)
    rw [← hslot]
    simp only [State.setSlot_slot_self]
    split
    · exact hcounted.dispatch hengine (by simp only [State.setSlot_slot_self])
    · exact hcounted.setEngine (.of_eq rfl)
  · exact h.setEngine (.of_eq rfl)

theorem engineTurn (h : s.SameLive t) : s.engineTurn.SameLive t.engineTurn := by
  unfold State.engineTurn
  rw [← h.phase_eq, ← h.tickPend_eq]
  cases hphase : s.engine.phase with
  | idle =>
    dsimp only
    split
    · exact h.scanStart
    · exact h
  | scan => exact h.visit hphase
  | waitCb => exact h

/-- `DONE` touches the awaited slot only if that one is still occupied (10_state.md R29 item 6). -/
theorem dispatchReturn (h : s.SameLive t) (hinv : s.Inv) (hwait : s.engine.phase = .waitCb) :
    s.dispatchReturn.SameLive t.dispatchReturn := by
  have hengine := h.engine.eq (by rw [hwait]; exact nofun)
  have hfired : s.completeFiring.SameLive t.completeFiring := by
    unfold State.completeFiring
    rw [← hengine]
    split
    · next hcur =>
      obtain ⟨-, ⟨-, hlive⟩, -⟩ := hinv
      exact h.setSlot _ (.of_eq (congrArg Slot.postFire (h.slot_eq (hlive hcur).2)))
    · exact h
  obtain ⟨-, -, -, hrest⟩ := h
  rw [State.dispatchReturn_eq, State.dispatchReturn_eq, ← hengine]
  exact ⟨hfired.slot, Engine.SameLive.of_eq rfl, ⟨rfl, nofun⟩, hrest⟩

theorem regWrite (h : s.SameLive t) (v : Word) (r : Reg) :
    (s.regWrite v r).SameLive (t.regWrite v r) := by
  cases r with
  | argPeriod | argCount | argCb | argParam =>
    simp only [State.regWrite, ← h.args]
    exact h.setArgs _
  | flags =>
    simp only [State.regWrite, State.writeFlags]
    split
    · obtain ⟨heq, hidx⟩ := h.engine
      refine h.setEngine ⟨?_, hidx⟩
      rw [heq]
    · exact h
  | cmd | status | result | dispInfo | dispCb | dispParam | reserved => exact h

/-- A reset draws the same free values, and keeps nothing of the block. -/
theorem resetBlock (h : s.SameLive t) : s.resetBlock.SameLive t.resetBlock := by
  obtain ⟨-, -, -, -, -, -, -, hschedule, hout, hresets⟩ := h
  have heq : s.resetBlock = t.resetBlock := by
    simp only [State.resetBlock, hschedule, hout, hresets]
  rw [heq]
  exact refl _

/-! A command, and a step -/

theorem of_exec (h : s.SameLive t) (hinv : s.Inv) (i : Instr) :
    sameOutcome State.SameLive (exec i s) (exec i t) := by
  cases i with
  | createOnce p | createForever p | createN p => exact h.create _ p
  | delete n => exact h.onValidSlot n fun i _ => h.deleteSlot i
  | enable n | disable n | restart n =>
    exact h.onValidSlot n fun i hslot => h.setSlot i (.of_eq (by rw [hslot]))
  | tick => exact h.tickEvent.setStatus _
  | done =>
    simp only [exec, execDone, ← h.phase_eq]
    split
    · next hwait => exact (h.dispatchReturn hinv hwait).setStatus _
    · exact h.setStatus _
  | tarm =>
    simp only [exec, execTarm, ← h.args]
    split
    · exact ((h.emit _).setTrig ⟨rfl, fun _ => rfl⟩).setStatus _
    · exact (h.emit _).setStatus _
  | tstop => exact ((h.setTrig (h.trig.setRun false)).emit _).setStatus _
  | tstart | trestart =>
    have hrun := h.setTrig (h.trig.setRun true)
    simp only [exec, execTstart, execTrestart]
    by_cases harmed : s.trig.armed = true
    · rw [if_pos harmed, if_pos (h.armed_eq ▸ harmed)]
      exact (hrun.emit _).setStatus _
    · rw [if_neg harmed, if_neg (h.armed_eq ▸ harmed)]
      exact h.setStatus _

end State.SameLive

/-- Settles O52: the two states deliver the same event, and each event keeps the relation. -/
theorem deadFieldsAreUnobservable : Obligations.DeadFieldsAreUnobservable := by
  intro s t hinv _ h
  obtain ⟨-, -, -, -, -, -, -, hschedule, -⟩ := id h
  cases hs : s.schedule with
  | nil =>
    rw [step_nil hs, step_nil (hschedule ▸ hs)]
    exact h.engineTurn
  | cons e rest =>
    have ht : t.schedule = e :: rest := hschedule ▸ hs
    have h' := h.setSchedule rest
    cases e with
    | engine => rw [step_engine hs, step_engine ht]; exact h'.engineTurn
    | rst => rw [step_rst hs, step_rst ht]; exact h'.resetBlock
    | tick =>
      rw [step_tick hs, step_tick ht, ← h.armed_eq, ← h.run_eq]
      split
      · exact h'.tickEvent
      · rfl
    | read off width =>
      rw [step_read hs, step_read ht]
      cases accessReg off width with
      | error e => rfl
      | ok r => simp only [h.regRead_eq]; exact h'.emit _
    | write off width v =>
      cases hr : accessReg off width with
      | error e => rw [step_write_refused hs hr, step_write_refused ht hr]; rfl
      | ok r =>
        obtain ⟨rfl, rfl⟩ := accessReg_eq_ok hr
        by_cases hc : r = .cmd
        · subst hc
          rw [step_cmdWrite (w := v) hs, step_cmdWrite (w := v) ht]
          cases decode v with
          | error e => exact h'.setStatus _
          | ok i => exact h'.of_exec hinv i
        · rw [step_write hs hr hc, step_write ht hr hc]
          exact h'.regWrite v r

end Sys2Proof.Machine

end

/-! ### Who writes the slot table (10_state.md R21) -/

section

namespace Sys2Proof.Machine

/-! The slot a command writes, and with what -/

/-- The slot a command writes, if any: the first free one for a create whose operands pass, the one
its identifier names for a control command, the awaited one for `DONE` (40_slot_create.md R80,
41_slot_control.md R90, 42_tick_scan.md R105). -/
def commandTarget (i : Instr) (s : State) : Option SlotId :=
  match i with
  | .createOnce _ => if createOperandsOk .once s.args then s.firstFree else none
  | .createForever _ => if createOperandsOk .forever s.args then s.firstFree else none
  | .createN _ => if createOperandsOk .ntimes s.args then s.firstFree else none
  | .delete n | .enable n | .disable n | .restart n => s.validSlot n
  | .done =>
    if s.engine.phase = .waitCb ∧ s.engine.curLive = true then some s.engine.scanIdx else none
  | .tick | .tarm | .tstart | .tstop | .trestart => none

/-- What a command makes of the slot it writes. -/
def commandWrites (i : Instr) (a : Args) (x : Slot) : Slot :=
  match i with
  | .createOnce p => createdSlot .once p a
  | .createForever p => createdSlot .forever p a
  | .createN p => createdSlot .ntimes p a
  | .delete _ => x.free
  | .enable _ => { x with enabled := true }
  | .disable _ => { x with enabled := false }
  | .restart _ => x.reload
  | .done => x.postFire
  | .tick | .tarm | .tstart | .tstop | .trestart => x

/-- `t` has the slots of `s`, but `g` of its own slot at the index `o` names, if it names one. -/
def State.EditedAt (s t : State) (o : Option SlotId) (g : Slot → Slot) : Prop :=
  ∀ j, t.slot j = if o = some j then g (s.slot j) else s.slot j

theorem State.slot_eq_of_slots {s t : State} (h : t.slots = s.slots) (j : SlotId) :
    t.slot j = s.slot j :=
  congrArg (fun v : Table => v.get j) h

namespace State.EditedAt

variable {s t : State} {o : Option SlotId} {g : Slot → Slot} {j : SlotId}

theorem slot_eq (h : s.EditedAt t o g) (ho : o = some j) : t.slot j = g (s.slot j) := by
  rw [h j, if_pos ho]

theorem slot_eq_of_ne (h : s.EditedAt t o g) (ho : o ≠ some j) : t.slot j = s.slot j := by
  rw [h j, if_neg ho]

theorem target_of_ne (h : s.EditedAt t o g) (hj : t.slot j ≠ s.slot j) : o = some j :=
  not_not.1 fun ho => hj (h.slot_eq_of_ne ho)

theorem none (h : t.slots = s.slots) : s.EditedAt t Option.none g := fun j => by
  rw [if_neg nofun, State.slot_eq_of_slots h]

theorem setSlot (s : State) (i : SlotId) (g : Slot → Slot) :
    s.EditedAt (s.setSlot i (g (s.slot i))) (some i) g := fun j => by
  rw [State.setSlot_slot]
  by_cases hj : j = i
  · subst hj; rw [if_pos rfl, if_pos rfl]
  · rw [if_neg hj, if_neg fun hi => hj (Option.some.inj hi).symm]

end State.EditedAt

theorem State.create_editedAt (s : State) (k : Kind) (p : Bool) :
    s.EditedAt (s.create k p) (if createOperandsOk k s.args then s.firstFree else none)
      fun _ => createdSlot k p s.args := by
  rcases s.create_cases k p with ⟨hok, h⟩ | ⟨hok, hfull, h⟩ | ⟨i, hok, hi, h⟩ <;> rw [h, hok]
  · exact .none rfl
  · rw [if_pos rfl, State.firstFree_eq_none.2 hfull]
    exact .none rfl
  · rw [if_pos rfl, State.firstFree_eq_some.2 hi]
    exact .setSlot s i fun _ => createdSlot k p s.args

theorem State.onValidSlot_editedAt (s : State) (n : Nat) {f : SlotId → State → State}
    {g : Slot → Slot} (hf : ∀ i, (f i s).slots = (s.setSlot i (g (s.slot i))).slots) :
    s.EditedAt (s.onValidSlot n f) (s.validSlot n) g := by
  unfold State.onValidSlot
  cases s.validSlot n with
  | none => exact .none rfl
  | some i =>
    intro j
    rw [← State.EditedAt.setSlot s i g j]
    exact State.slot_eq_of_slots (hf i) j

theorem State.deleteSlot_slots (s : State) (i : SlotId) :
    (s.deleteSlot i).slots = (s.setSlot i (s.slot i).free).slots := by
  rw [State.deleteSlot_eq]; rfl

theorem State.tickEvent_slots (s : State) : s.tickEvent.slots = s.slots := by
  rw [State.tickEvent_eq]; rfl

/-- `DONE` writes the awaited slot, unless that one was deleted since (42_tick_scan.md R105). -/
theorem execDone_editedAt {s t : State} (h : exec .done s = .next t) :
    s.EditedAt t (commandTarget .done s) Slot.postFire := by
  simp only [exec, execDone] at h
  simp only [commandTarget]
  split at h <;> cases h
  · next hwait =>
    rw [State.dispatchReturn_eq]
    rcases s.completeFiring_cases with ⟨hcur, hs⟩ | ⟨hcur, hs⟩
    · rw [if_neg (by simp [hcur]), hs]
      exact .none rfl
    · rw [if_pos ⟨hwait, hcur⟩, hs]
      exact .setSlot s _ Slot.postFire
  · next hwait =>
    rw [if_neg fun hw => hwait hw.1]
    exact .none rfl

/-- The slot table after a command. -/
theorem exec_editedAt {i : Instr} {s t : State} (h : exec i s = .next t) :
    s.EditedAt t (commandTarget i s) (commandWrites i s.args) := by
  cases i with
  | createOnce p | createForever p | createN p => cases h; exact s.create_editedAt _ p
  | delete n => cases h; exact s.onValidSlot_editedAt n s.deleteSlot_slots
  | enable n | disable n | restart n => cases h; exact s.onValidSlot_editedAt n fun _ => rfl
  | done => exact execDone_editedAt h
  | tick => cases h; exact .none s.tickEvent_slots
  | tstop => cases h; exact .none rfl
  | tarm | tstart | trestart =>
    simp only [exec, execTarm, execTstart, execTrestart] at h
    split at h <;> cases h <;> exact .none rfl

/-! The slot the engine visits -/

/-- The slot that the engine's turn counts down, if any (42_tick_scan.md R102). -/
def State.visited (s : State) : Option SlotId :=
  if s.engine.phase = .scan ∧ (s.slot s.engine.scanIdx).live = true then some s.engine.scanIdx
  else none

theorem State.visited_eq_some {s : State} {j : SlotId} :
    s.visited = some j ↔ s.engine.phase = .scan ∧ s.engine.scanIdx = j ∧ (s.slot j).live = true := by
  unfold State.visited
  constructor
  · intro h
    split at h
    · next hv => cases h; exact ⟨hv.1, rfl, hv.2⟩
    · cases h
  · rintro ⟨hscan, rfl, hlive⟩
    rw [if_pos ⟨hscan, hlive⟩]

theorem State.visit_editedAt {s : State} (hscan : s.engine.phase = .scan) :
    s.EditedAt s.visit s.visited Slot.countDown := by
  unfold State.visited
  rcases s.visit_cases with ⟨hlive, h⟩ | ⟨hlive, -, h⟩ | ⟨hlive, -, h⟩ <;> rw [h]
  · rw [if_neg (by simp [hlive])]
    exact .none rfl
  · rw [if_pos ⟨hscan, hlive⟩]
    exact .setSlot s _ Slot.countDown
  · rw [if_pos ⟨hscan, hlive⟩]
    exact .setSlot s _ Slot.countDown

theorem State.engineTurn_editedAt (s : State) :
    s.EditedAt s.engineTurn s.visited Slot.countDown := by
  have hnot (h : s.engine.phase ≠ .scan) : s.visited = none := if_neg fun hv => h hv.1
  rcases s.engineTurn_cases with ⟨hidle, -, h⟩ | ⟨hscan, h⟩ | ⟨hoff, h⟩ <;> rw [h]
  · rw [hnot (by rw [hidle]; exact nofun)]
    exact .none rfl
  · exact State.visit_editedAt hscan
  · rw [hnot fun hscan => hoff (.inr hscan)]
    exact .none rfl

/-! A step -/

theorem issues_of_decode {s : State} {w : Word} {i : Instr} {rest : List Event}
    (hs : s.schedule = cmdWrite w :: rest) (hdecode : decode w = .ok i) : s.Issues i := by
  rw [State.Issues, hs, encode_of_decode hdecode]
  rfl

theorem engineMoves_of_nil {s : State} (hs : s.schedule = []) : s.EngineMoves :=
  .inl (by rw [hs]; rfl)

theorem engineMoves_of_engine {s : State} {rest : List Event} (hs : s.schedule = .engine :: rest) :
    s.EngineMoves :=
  .inr (by rw [hs]; rfl)

theorem resets_of_rst {s : State} {rest : List Event} (hs : s.schedule = .rst :: rest) :
    s.Resets := by
  rw [State.Resets, hs]
  rfl

/-- Which slots a step can write: that of a command, the visited one, all in a reset. -/
theorem step_editedAt_cases {s t : State} (h : step s = .next t) :
    t.slots = s.slots ∨
    (∃ i, s.Issues i ∧ s.EditedAt t (commandTarget i s) (commandWrites i s.args)) ∨
    (s.EngineMoves ∧ s.EditedAt t s.visited Slot.countDown) ∨ s.Resets := by
  rcases step_next_cases h with ⟨hs, rfl⟩ | ⟨rest, ⟨hs, rfl⟩ | ⟨-, -, -, rfl⟩ | ⟨r, -, rfl⟩ |
    ⟨r, v, -, -, rfl⟩ | ⟨w, e, -, -, rfl⟩ | ⟨w, i, hs, hdecode, hexec⟩ | ⟨hs, -⟩⟩
  · exact .inr (.inr (.inl ⟨engineMoves_of_nil hs, s.engineTurn_editedAt⟩))
  · exact .inr (.inr (.inl ⟨engineMoves_of_engine hs, State.engineTurn_editedAt _⟩))
  · exact .inl (State.tickEvent_slots _)
  · exact .inl rfl
  · exact .inl (by rw [State.regWrite_eq])
  · exact .inl rfl
  · refine .inr (.inl ⟨i, issues_of_decode hs hdecode, ?_⟩)
    exact exec_editedAt (s := { s with schedule := rest }) hexec
  · exact .inr (.inr (.inr (resets_of_rst hs)))

/-- The commands that write a slot, and which (10_state.md R21). -/
theorem commandTarget_eq_some_cases {i : Instr} {s : State} {j : SlotId}
    (h : commandTarget i s = some j) :
    (∃ k p, i = createInstr k p ∧ s.firstFree = some j) ∨
    (∃ n, (i = .delete n ∨ i = .enable n ∨ i = .disable n ∨ i = .restart n) ∧
      s.validSlot n = some j) ∨
    (i = .done ∧ s.engine.phase = .waitCb ∧ s.engine.scanIdx = j) := by
  have hfree {k : Kind} (h : (if createOperandsOk k s.args then s.firstFree else none) = some j) :
      s.firstFree = some j := by
    split at h
    · exact h
    · cases h
  cases i with
  | createOnce p => exact .inl ⟨.once, p, rfl, hfree h⟩
  | createForever p => exact .inl ⟨.forever, p, rfl, hfree h⟩
  | createN p => exact .inl ⟨.ntimes, p, rfl, hfree h⟩
  | delete n => exact .inr (.inl ⟨n, .inl rfl, h⟩)
  | enable n => exact .inr (.inl ⟨n, .inr (.inl rfl), h⟩)
  | disable n => exact .inr (.inl ⟨n, .inr (.inr (.inl rfl)), h⟩)
  | restart n => exact .inr (.inl ⟨n, .inr (.inr (.inr rfl)), h⟩)
  | done =>
    simp only [commandTarget] at h
    split at h
    · next hw => exact .inr (.inr ⟨rfl, hw.1, Option.some.inj h⟩)
    · cases h
  | tick | tarm | tstart | tstop | trestart => cases h

/-- Settles O48: each cause names at most one slot. -/
theorem slotTableWriters : Obligations.SlotTableWriters := by
  intro s t h hreset
  have hone {o : Option SlotId} {g : Slot → Slot} (hedit : s.EditedAt t o g) (i j : SlotId)
      (hi : t.slot i ≠ s.slot i) (hj : t.slot j ≠ s.slot j) : i = j :=
    Option.some.inj ((hedit.target_of_ne hi).symm.trans (hedit.target_of_ne hj))
  rcases step_editedAt_cases h with hsame | ⟨i, hissues, hedit⟩ | ⟨hmoves, hedit⟩ | hrst
  · have hsame := State.slot_eq_of_slots hsame
    exact ⟨fun j hj => absurd (hsame j) hj, fun i _ hi => absurd (hsame i) hi⟩
  · refine ⟨fun j hj => ?_, hone hedit⟩
    rcases commandTarget_eq_some_cases (hedit.target_of_ne hj) with ⟨k, p, rfl, hfree⟩ |
      ⟨n, hi, hvalid⟩ | ⟨rfl, hwait, hidx⟩
    · exact .inl ⟨k, p, hissues, hfree⟩
    · refine .inr (.inl ⟨n, ?_, hvalid⟩)
      rcases hi with rfl | rfl | rfl | rfl
      · exact .inl hissues
      · exact .inr (.inl hissues)
      · exact .inr (.inr (.inl hissues))
      · exact .inr (.inr (.inr hissues))
    · exact .inr (.inr (.inr ⟨hissues, hwait, hidx⟩))
  · refine ⟨fun j hj => ?_, hone hedit⟩
    obtain ⟨hscan, hidx, -⟩ := State.visited_eq_some.1 (hedit.target_of_ne hj)
    exact .inr (.inr (.inl ⟨hmoves, hscan, hidx⟩))
  · exact absurd hrst hreset

/-! What happens to an occupied slot -/

/-- A reset leaves every slot FREE (10_state.md R30). -/
theorem step_reset_slot {s t : State} {i : SlotId} (hreset : s.Resets) (h : step s = .next t) :
    t.slot i = deadSlot s.resets i := by
  obtain ⟨rest, hs⟩ := List.head?_eq_some_iff.1 hreset
  rw [step_rst hs] at h
  cases h
  exact State.resetBlock_slot _ i

/-- The ways a slot that stays occupied can change: its `enabled` bit, a reload by `RESTART`, a
visit, or the post-fire action (10_state.md R13 to R16). -/
theorem step_occupied_cases {s t : State} {j : SlotId} (h : step s = .next t)
    (ha : (s.slot j).alloc = true) (ha' : (t.slot j).alloc = true) :
    (∃ b, t.slot j = { s.slot j with enabled := b }) ∨
    (s.Issues (.restart j.val) ∧ t.slot j = (s.slot j).reload) ∨
    (s.EngineMoves ∧ s.engine.phase = .scan ∧ s.engine.scanIdx = j ∧ (s.slot j).enabled = true ∧
      t.slot j = (s.slot j).countDown) ∨
    (s.Issues .done ∧ s.engine.phase = .waitCb ∧ s.engine.scanIdx = j ∧
      (t.slot j = (s.slot j).reload ∨
        ((s.slot j).kind = .ntimes ∧
          t.slot j = { s.slot j with
            count := (s.slot j).count - 1, remaining := (s.slot j).period }))) := by
  have hunchanged (heq : t.slot j = s.slot j) : ∃ b, t.slot j = { s.slot j with enabled := b } :=
    ⟨_, heq⟩
  rcases step_editedAt_cases h with hsame | ⟨i, hissues, hedit⟩ | ⟨hmoves, hedit⟩ | hrst
  · exact .inl (hunchanged (State.slot_eq_of_slots hsame j))
  · by_cases htarget : commandTarget i s = some j
    · have hslot := hedit.slot_eq htarget
      rw [hslot] at ha'
      rcases commandTarget_eq_some_cases htarget with ⟨k, p, -, hfree⟩ |
        ⟨n, rfl | rfl | rfl | rfl, hvalid⟩ | ⟨rfl, hwait, hidx⟩
      · obtain ⟨hfree, -⟩ := State.firstFree_eq_some.1 hfree
        rw [ha] at hfree
        cases hfree
      · cases ha'
      · exact .inl ⟨true, hslot⟩
      · exact .inl ⟨false, hslot⟩
      · obtain ⟨rfl, -⟩ := State.validSlot_eq_some.1 hvalid
        exact .inr (.inl ⟨hissues, hslot⟩)
      · refine .inr (.inr (.inr ⟨hissues, hwait, hidx, ?_⟩))
        simp only [commandWrites] at hslot ha'
        rcases (s.slot j).postFire_cases with ⟨-, hx⟩ | ⟨hk, -, hx⟩ | ⟨-, -, hx⟩ | ⟨-, hx⟩ <;>
          rw [hx] at hslot ha'
        · exact .inl hslot
        · exact .inr ⟨hk, hslot⟩
        · cases ha'
        · cases ha'
    · exact .inl (hunchanged (hedit.slot_eq_of_ne htarget))
  · by_cases hvisited : s.visited = some j
    · obtain ⟨hscan, hidx, hlive⟩ := State.visited_eq_some.1 hvisited
      exact .inr (.inr (.inl ⟨hmoves, hscan, hidx, (Slot.live_iff.1 hlive).2,
        hedit.slot_eq hvisited⟩))
    · exact .inl (hunchanged (hedit.slot_eq_of_ne hvisited))
  · rw [step_reset_slot hrst h] at ha'
    cases ha'

/-- Settles O49: none of the ways an occupied slot can change touches its configuration. -/
theorem configurationIsFixedAtCreation : Obligations.ConfigurationIsFixedAtCreation := by
  intro s t i h ha ha'
  rcases step_occupied_cases h ha ha' with ⟨b, hx⟩ | ⟨-, hx⟩ | ⟨-, -, -, -, hx⟩ |
    ⟨-, -, -, hx | ⟨-, hx⟩⟩ <;> rw [hx]
  all_goals exact ⟨rfl, rfl, rfl, rfl, rfl⟩

/-- Settles O50: the countdown and the count in each way an occupied slot can change. -/
theorem countdownAndCountWriters : Obligations.CountdownAndCountWriters := by
  intro s t i h ha ha'
  rcases step_occupied_cases h ha ha' with ⟨b, hx⟩ | ⟨hrestart, hx⟩ |
    ⟨hmoves, hscan, hidx, henabled, hx⟩ | ⟨hdone, hwait, hidx, hx | ⟨hkind, hx⟩⟩ <;> rw [hx]
  · exact ⟨.inl rfl, .inl rfl⟩
  · exact ⟨.inr (.inr ⟨.inl hrestart, rfl⟩), .inl rfl⟩
  · exact ⟨.inr (.inl ⟨hmoves, hscan, hidx, henabled, rfl⟩), .inl rfl⟩
  · exact ⟨.inr (.inr ⟨.inr ⟨hdone, hwait, hidx⟩, rfl⟩), .inl rfl⟩
  · exact ⟨.inr (.inr ⟨.inr ⟨hdone, hwait, hidx⟩, rfl⟩), .inr ⟨hdone, hwait, hidx, hkind, rfl⟩⟩

end Sys2Proof.Machine

end

/-! ### Who writes the rest of the state (10_state.md R22, R25, R28) -/

section

namespace Sys2Proof.Machine

/-! What a command leaves unchanged -/

theorem exec_createInstr (k : Kind) (p : Bool) (s : State) :
    exec (createInstr k p) s = .next (s.create k p) := by
  cases k <;> rfl

theorem State.create_eq (s : State) (k : Kind) (p : Bool) :
    s.create k p = { s with
      slots := (s.create k p).slots
      result := (s.create k p).result
      status := (s.create k p).status } := by
  rcases s.create_cases k p with ⟨-, h⟩ | ⟨-, -, h⟩ | ⟨i, -, -, h⟩ <;> rw [h] <;> rfl

/-- What a command other than a create, an answered `DONE` and those of the trigger can write: slots,
the tick latch, `overrun`, `cur_live` and STATUS. -/
abbrev State.KeepsItsPlace (s t : State) : Prop :=
  t = { s with
    slots := t.slots
    engine := { t.engine with phase := s.engine.phase, scanIdx := s.engine.scanIdx }
    status := t.status }

theorem State.onValidSlot_keepsItsPlace {s : State} (n : Nat) {f : SlotId → State → State}
    (hf : ∀ i, s.KeepsItsPlace (f i s)) : s.KeepsItsPlace (s.onValidSlot n f) := by
  rcases s.onValidSlot_cases n f with ⟨i, -, -, h⟩ | ⟨-, h⟩ <;> rw [h]
  · exact congrArg (State.setStatus · .ok) (hf i)
  · rfl

theorem State.deleteSlot_keepsItsPlace (s : State) (i : SlotId) :
    s.KeepsItsPlace (s.deleteSlot i) := by
  rw [State.deleteSlot_eq]
  rfl

theorem State.tickEvent_keepsItsPlace (s : State) : s.KeepsItsPlace s.tickEvent := by
  rw [State.tickEvent_eq]
  rfl

/-- What a command can write: a create its slot, RESULT and STATUS; an answered `DONE` the slot
table, the dispatch, the engine and STATUS; a trigger command the shadow and STATUS, with a request;
any other its slots, STATUS and the engine's bits, but not its place in the scan. -/
theorem exec_frame_cases {i : Instr} {s t : State} (h : exec i s = .next t) :
    (∃ k p, i = createInstr k p ∧
      t = { s with slots := t.slots, result := t.result, status := t.status }) ∨
    (i = .done ∧ s.engine.phase = .waitCb ∧
      t = { s with
        slots := t.slots
        disp := t.disp
        engine := { s.engine with curLive := false }.advance
        status := t.status }) ∨
    ((i = .tarm ∨ i = .tstart ∨ i = .tstop ∨ i = .trestart) ∧
      t = { s with trig := t.trig, out := t.out, status := t.status }) ∨
    s.KeepsItsPlace t := by
  cases i with
  | createOnce p => cases h; exact .inl ⟨.once, p, rfl, s.create_eq _ p⟩
  | createForever p => cases h; exact .inl ⟨.forever, p, rfl, s.create_eq _ p⟩
  | createN p => cases h; exact .inl ⟨.ntimes, p, rfl, s.create_eq _ p⟩
  | delete n =>
    cases h
    exact .inr (.inr (.inr (State.onValidSlot_keepsItsPlace n s.deleteSlot_keepsItsPlace)))
  | enable n | disable n | restart n =>
    cases h
    exact .inr (.inr (.inr (State.onValidSlot_keepsItsPlace n fun _ => rfl)))
  | tick =>
    cases h
    exact .inr (.inr (.inr (congrArg (State.setStatus · .ok) s.tickEvent_keepsItsPlace)))
  | done =>
    simp only [exec, execDone] at h
    split at h <;> cases h
    · next hwait =>
      exact .inr (.inl ⟨rfl, hwait, congrArg (State.setStatus · .ok) s.dispatchReturn_eq⟩)
    · exact .inr (.inr (.inr rfl))
  | tarm =>
    simp only [exec, execTarm] at h
    split at h <;> cases h <;> exact .inr (.inr (.inl ⟨.inl rfl, rfl⟩))
  | tstart =>
    simp only [exec, execTstart] at h
    split at h <;> cases h <;> exact .inr (.inr (.inl ⟨.inr (.inl rfl), rfl⟩))
  | tstop => cases h; exact .inr (.inr (.inl ⟨.inr (.inr (.inl rfl)), rfl⟩))
  | trestart =>
    simp only [exec, execTrestart] at h
    split at h <;> cases h <;> exact .inr (.inr (.inl ⟨.inr (.inr (.inr rfl)), rfl⟩))

/-- No command modifies an operand register (10_state.md R25). -/
theorem exec_args {i : Instr} {s t : State} (h : exec i s = .next t) : t.args = s.args := by
  rcases exec_frame_cases h with ⟨k, p, -, ht⟩ | ⟨-, -, ht⟩ | ⟨-, ht⟩ | ht
  all_goals rw [ht]

/-- RESULT is written by creates only (10_state.md R25). -/
theorem exec_result_cases {i : Instr} {s t : State} (h : exec i s = .next t) :
    t.result = s.result ∨ ∃ k p, i = createInstr k p := by
  rcases exec_frame_cases h with ⟨k, p, hi, -⟩ | ⟨-, -, ht⟩ | ⟨-, ht⟩ | ht
  · exact .inr ⟨k, p, hi⟩
  all_goals exact .inl (by rw [ht])

/-- The trigger shadow is written by the trigger commands only (10_state.md R28). -/
theorem exec_trig_cases {i : Instr} {s t : State} (h : exec i s = .next t) :
    t.trig = s.trig ∨ i = .tarm ∨ i = .tstart ∨ i = .tstop ∨ i = .trestart := by
  rcases exec_frame_cases h with ⟨k, p, -, ht⟩ | ⟨-, -, ht⟩ | ⟨hi, -⟩ | ht
  · exact .inl (by rw [ht])
  · exact .inl (by rw [ht])
  · exact .inr hi
  · exact .inl (by rw [ht])

/-- Of the commands only an answered `DONE` moves the engine's place in the scan (10_state.md R22,
42_tick_scan.md R105). -/
theorem exec_place_cases {i : Instr} {s t : State} (h : exec i s = .next t) :
    (t.engine.phase = s.engine.phase ∧ t.engine.scanIdx = s.engine.scanIdx) ∨
    (i = .done ∧ s.engine.phase = .waitCb ∧
      t.engine = { s.engine with curLive := false }.advance) := by
  rcases exec_frame_cases h with ⟨k, p, -, ht⟩ | ⟨hi, hwait, ht⟩ | ⟨-, ht⟩ | ht
  · exact .inl (by rw [ht]; exact ⟨rfl, rfl⟩)
  · exact .inr ⟨hi, hwait, by rw [ht]⟩
  · exact .inl (by rw [ht]; exact ⟨rfl, rfl⟩)
  · exact .inl (by rw [ht]; exact ⟨rfl, rfl⟩)

/-! What a step leaves unchanged -/

/-- The engine's turn writes the slot table, its own state, the latches and the observer's record
(42_tick_scan.md R101 to R104). -/
theorem State.engineTurn_eq (s : State) :
    s.engineTurn = { s with
      slots := s.engineTurn.slots
      engine := s.engineTurn.engine
      disp := s.engineTurn.disp
      out := s.engineTurn.out } := by
  rcases s.engineTurn_cases with ⟨-, -, h⟩ | ⟨-, h⟩ | ⟨-, h⟩
  · rw [h]; rfl
  · rcases s.visit_cases with ⟨-, hv⟩ | ⟨-, -, hv⟩ | ⟨-, -, hv⟩ <;> rw [h, hv] <;> rfl
  · rw [h]

/-- Reset aside, a step runs a command, or leaves RESULT and the trigger shadow as they are, STATUS
too unless a reserved word is written, and the operand registers too unless one is written. -/
theorem step_frame_cases {s t : State} (h : step s = .next t) (hreset : ¬ s.Resets) :
    (∃ i rest, s.Issues i ∧ exec i { s with schedule := rest } = .next t) ∨
    (t.result = s.result ∧ t.trig = s.trig ∧
      (t.status = s.status ∨ ∃ w, s.schedule.head? = some (cmdWrite w)) ∧
      (t.args = s.args ∨
        ∃ r v rest, s.schedule.head? = some (.write (Reg.offset r) .word v) ∧
          t.args = (State.regWrite { s with schedule := rest } v r).args)) := by
  rcases step_next_cases h with ⟨hs, rfl⟩ | ⟨rest, ⟨hs, rfl⟩ | ⟨-, -, -, rfl⟩ | ⟨r, -, rfl⟩ |
    ⟨r, v, -, hs, rfl⟩ | ⟨w, e, hs, -, rfl⟩ | ⟨w, i, hs, hdecode, hexec⟩ | ⟨hs, -⟩⟩
  · rw [State.engineTurn_eq]
    exact .inr ⟨rfl, rfl, .inl rfl, .inl rfl⟩
  · rw [State.engineTurn_eq]
    exact .inr ⟨rfl, rfl, .inl rfl, .inl rfl⟩
  · rw [State.tickEvent_eq]
    exact .inr ⟨rfl, rfl, .inl rfl, .inl rfl⟩
  · exact .inr ⟨rfl, rfl, .inl rfl, .inl rfl⟩
  · refine .inr ⟨?_, ?_, .inl ?_, .inr ⟨r, v, rest, by rw [hs]; rfl, rfl⟩⟩ <;>
      rw [State.regWrite_eq]
  · exact .inr ⟨rfl, rfl, .inr ⟨w, by rw [hs]; rfl⟩, .inl rfl⟩
  · exact .inl ⟨i, rest, issues_of_decode hs hdecode, hexec⟩
  · exact absurd (resets_of_rst hs) hreset

theorem State.writeFlags_args (s : State) (v : Word) : (s.writeFlags v).args = s.args := by
  unfold State.writeFlags
  split <;> rfl

/-- Settles O46: a command is a `CMD` write, and so is a reserved word. -/
theorem statusAndResultWriters : Obligations.StatusAndResultWriters := by
  intro s t h hreset
  rcases step_frame_cases h hreset with ⟨i, rest, hissues, hexec⟩ | ⟨hresult, -, hstatus, -⟩
  · refine ⟨fun _ => ⟨encode i, hissues⟩, fun hne => ?_⟩
    rcases exec_result_cases hexec with hsame | ⟨k, p, rfl⟩
    · exact absurd hsame hne
    · exact ⟨k, p, hissues⟩
  · exact ⟨hstatus.resolve_left, fun hne => absurd hresult hne⟩

/-- Settles O51: no event but a command touches the shadow. -/
theorem triggerShadowWriters : Obligations.TriggerShadowWriters := by
  intro s t h hreset hne
  rcases step_frame_cases h hreset with ⟨i, rest, hissues, hexec⟩ | ⟨-, htrig, -⟩
  · rcases (exec_trig_cases hexec).resolve_left hne with rfl | rfl | rfl | rfl
    · exact .inl hissues
    · exact .inr (.inl hissues)
    · exact .inr (.inr (.inl hissues))
    · exact .inr (.inr (.inr hissues))
  · exact absurd htrig hne

/-- Settles O47: register by register, the one that a write stores in. -/
theorem operandRegisterWriters : Obligations.OperandRegisterWriters := by
  intro s t h hreset
  rcases step_frame_cases h hreset with ⟨i, rest, -, hexec⟩ |
    ⟨-, -, -, hargs | ⟨r, v, rest, hs, hargs⟩⟩
  · rw [exec_args hexec]
    exact ⟨(absurd rfl ·), (absurd rfl ·), (absurd rfl ·), (absurd rfl ·)⟩
  · rw [hargs]
    exact ⟨(absurd rfl ·), (absurd rfl ·), (absurd rfl ·), (absurd rfl ·)⟩
  · rw [hargs]
    cases r with
    | argPeriod => exact ⟨fun _ => hs, (absurd rfl ·), (absurd rfl ·), (absurd rfl ·)⟩
    | argCount => exact ⟨(absurd rfl ·), fun _ => hs, (absurd rfl ·), (absurd rfl ·)⟩
    | argCb => exact ⟨(absurd rfl ·), (absurd rfl ·), fun _ => hs, (absurd rfl ·)⟩
    | argParam => exact ⟨(absurd rfl ·), (absurd rfl ·), (absurd rfl ·), fun _ => hs⟩
    | cmd | status | result | dispInfo | dispCb | dispParam | reserved =>
      exact ⟨(absurd rfl ·), (absurd rfl ·), (absurd rfl ·), (absurd rfl ·)⟩
    | flags =>
      simp only [State.regWrite, State.writeFlags_args]
      exact ⟨(absurd rfl ·), (absurd rfl ·), (absurd rfl ·), (absurd rfl ·)⟩

/-! The engine's place in the scan -/

/-- Where an advance leads, as a place in the scan (42_tick_scan.md R103). -/
theorem Engine.advance_place (e : Engine) :
    if e.scanIdx = 15 then e.advance.phase = .idle ∧ e.advance.scanIdx = 15
    else e.advance.phase = .scan ∧ e.advance.scanIdx = e.scanIdx + 1 := by
  rcases e.advance_cases with ⟨hlast, h⟩ | ⟨hmore, h⟩ <;> rw [h]
  · rw [if_pos hlast]; exact ⟨rfl, hlast⟩
  · rw [if_neg hmore]; exact ⟨rfl, rfl⟩

/-- How the engine's turn moves it: it stays, starts a scan, fires, or advances (42_tick_scan.md
R101, R102). -/
theorem State.engineTurn_place_cases (s : State) :
    (s.engineTurn.engine.phase = s.engine.phase ∧
      s.engineTurn.engine.scanIdx = s.engine.scanIdx) ∨
    (s.engine.phase = .idle ∧ s.engine.tickPend = true ∧
      s.engineTurn.engine.phase = .scan ∧ s.engineTurn.engine.scanIdx = 0) ∨
    (s.engine.phase = .scan ∧ s.engineTurn.engine.phase = .waitCb ∧
      s.engineTurn.engine.scanIdx = s.engine.scanIdx) ∨
    (s.engine.phase = .scan ∧ s.engineTurn.engine = s.engine.advance) := by
  rcases s.engineTurn_cases with ⟨hidle, hpend, h⟩ | ⟨hscan, h⟩ | ⟨-, h⟩ <;> rw [h]
  · exact .inr (.inl ⟨hidle, hpend, rfl, rfl⟩)
  · rcases s.visit_cases with ⟨-, hv⟩ | ⟨-, -, hv⟩ | ⟨-, -, hv⟩ <;> rw [hv]
    · exact .inr (.inr (.inr ⟨hscan, rfl⟩))
    · exact .inr (.inr (.inr ⟨hscan, rfl⟩))
    · exact .inr (.inr (.inl ⟨hscan, rfl, rfl⟩))
  · exact .inl ⟨rfl, rfl⟩

/-- What can move the engine's place in the scan: its own turn, an answered `DONE`, a reset. -/
theorem step_place_cases {s t : State} (h : step s = .next t) :
    (t.engine.phase = s.engine.phase ∧ t.engine.scanIdx = s.engine.scanIdx) ∨
    (s.EngineMoves ∧ ∃ rest, t = State.engineTurn { s with schedule := rest }) ∨
    (s.Issues .done ∧ s.engine.phase = .waitCb ∧
      t.engine = { s.engine with curLive := false }.advance) ∨
    s.Resets := by
  rcases step_next_cases h with ⟨hs, ht⟩ | ⟨rest, ⟨hs, ht⟩ | ⟨-, -, -, rfl⟩ | ⟨r, -, rfl⟩ |
    ⟨r, v, -, -, rfl⟩ | ⟨w, e, -, -, rfl⟩ | ⟨w, i, hs, hdecode, hexec⟩ | ⟨hs, -⟩⟩
  · exact .inr (.inl ⟨engineMoves_of_nil hs, s.schedule, ht⟩)
  · exact .inr (.inl ⟨engineMoves_of_engine hs, rest, ht⟩)
  · rw [State.tickEvent_eq]
    exact .inl ⟨rfl, rfl⟩
  · exact .inl ⟨rfl, rfl⟩
  · rw [State.regWrite_eq]
    exact .inl ⟨rfl, rfl⟩
  · exact .inl ⟨rfl, rfl⟩
  · rcases exec_place_cases hexec with hsame | ⟨rfl, hwait, ht⟩
    · exact .inl hsame
    · exact .inr (.inr (.inl ⟨issues_of_decode hs hdecode, hwait, ht⟩))
  · exact .inr (.inr (.inr (resets_of_rst hs)))

/-- Settles O29: the moves of the engine's turn, and the advance of an answered `DONE`. -/
theorem sequencingMovesInScanOrder : Obligations.SequencingMovesInScanOrder := by
  intro s t h
  rcases step_place_cases h with hsame | ⟨hmoves, rest, rfl⟩ | ⟨hdone, hwait, ht⟩ | hreset
  · exact .inl hsame
  · rcases State.engineTurn_place_cases { s with schedule := rest } with
      hstay | hstart | hfire | ⟨hscan, ht⟩
    · exact .inl hstay
    · exact .inr (.inl ⟨hmoves, hstart⟩)
    · exact .inr (.inr (.inl ⟨hmoves, hfire⟩))
    · refine .inr (.inr (.inr (.inl ⟨.inl ⟨hmoves, hscan⟩, ?_⟩)))
      rw [ht]
      exact s.engine.advance_place
  · refine .inr (.inr (.inr (.inl ⟨.inr ⟨hdone, hwait⟩, ?_⟩)))
    rw [ht]
    exact Engine.advance_place { s.engine with curLive := false }
  · exact .inr (.inr (.inr (.inr hreset)))

end Sys2Proof.Machine

end

/-! ### The life of a slot (10_state.md R12, 40_slot_create.md R84, 41_slot_control.md R95) -/

section

namespace Sys2Proof.Machine

/-! The state of a slot -/

theorem Slot.state_eq_free_iff {x : Slot} : x.state = .free ↔ x.alloc = false := by
  unfold Slot.state
  cases x.alloc <;> cases x.enabled <;> decide

theorem Slot.alloc_of_state_ne_free {x : Slot} (h : x.state ≠ .free) : x.alloc = true :=
  Bool.not_eq_false _ ▸ mt Slot.state_eq_free_iff.2 h

theorem Slot.state_of_alloc {x : Slot} (ha : x.alloc = true) :
    x.state = if x.enabled then .enabled else .disabled := by
  rw [Slot.state, if_pos ha]

section Commands

variable {s t : State} {i : SlotId} {k : Kind} {p : Bool}

/-! Creates -/

theorem commandTarget_createInstr_eq_some :
    commandTarget (createInstr k p) s = some i ↔ s.OperandsLegal k ∧ s.IsFirstFree i := by
  have htarget : commandTarget (createInstr k p) s =
      if createOperandsOk k s.args then s.firstFree else none := by cases k <;> rfl
  have hlegal : createOperandsOk k s.args = true ↔ s.OperandsLegal k := createOperandsOk_iff
  rw [htarget, ← State.firstFree_eq_some, ← hlegal]
  split
  · next hok => exact (and_iff_right hok).symm
  · next hok => exact iff_of_false nofun fun h => hok h.1

theorem commandWrites_createInstr (a : Args) (x : Slot) :
    commandWrites (createInstr k p) a x = createdSlot k p a := by
  cases k <;> rfl

/-- R95: a create makes the first free slot ENABLED and leaves every other slot in its state. -/
theorem exec_createInstr_state (h : exec (createInstr k p) s = .next t) :
    (t.slot i).state =
      if s.OperandsLegal k ∧ s.IsFirstFree i then .enabled else (s.slot i).state := by
  by_cases htarget : commandTarget (createInstr k p) s = some i
  · rw [(exec_editedAt h).slot_eq htarget, if_pos (commandTarget_createInstr_eq_some.1 htarget),
      commandWrites_createInstr]
    rfl
  · rw [(exec_editedAt h).slot_eq_of_ne htarget,
      if_neg (mt commandTarget_createInstr_eq_some.2 htarget)]

/-- A create whose operands pass, on a table that is not full (40_slot_create.md R80). -/
theorem State.create_of_isFirstFree (hlegal : s.OperandsLegal k) (hi : s.IsFirstFree i) :
    s.create k p =
      (s.setSlot i (createdSlot k p s.args)).finishCreate (BitVec.ofNat 32 i.val) .ok := by
  rw [State.create, if_pos (createOperandsOk_iff.2 hlegal), State.firstFree_eq_some.2 hi]

/-! Control commands -/

/-- R95: on a FREE slot a control command changes nothing, on an occupied one it has its effect. -/
theorem State.EditedAt.state_of_validSlot {g : Slot → Slot}
    (h : s.EditedAt t (s.validSlot i.val) g) :
    (t.slot i).state = if (s.slot i).state = .free then .free else (g (s.slot i)).state := by
  split
  · next hfree =>
    rw [h.slot_eq_of_ne, hfree]
    intro hvalid
    have ha := (State.validSlot_eq_some.1 hvalid).2
    rw [Slot.state_eq_free_iff.1 hfree] at ha
    cases ha
  · next hfree => rw [h.slot_eq (State.validSlot_val (Slot.alloc_of_state_ne_free hfree))]

theorem exec_delete_state (h : exec (.delete i.val) s = .next t) : (t.slot i).state = .free := by
  rw [(exec_editedAt h).state_of_validSlot]
  exact ite_self _

theorem exec_enable_state (h : exec (.enable i.val) s = .next t) :
    (t.slot i).state = if (s.slot i).state = .free then .free else .enabled := by
  rw [(exec_editedAt h).state_of_validSlot]
  split
  · rfl
  · next hfree =>
    have ha := Slot.alloc_of_state_ne_free hfree
    exact Slot.state_of_alloc (x := { s.slot i with enabled := true }) ha

theorem exec_disable_state (h : exec (.disable i.val) s = .next t) :
    (t.slot i).state = if (s.slot i).state = .free then .free else .disabled := by
  rw [(exec_editedAt h).state_of_validSlot]
  split
  · rfl
  · next hfree =>
    have ha := Slot.alloc_of_state_ne_free hfree
    exact Slot.state_of_alloc (x := { s.slot i with enabled := false }) ha

theorem exec_restart_state (h : exec (.restart i.val) s = .next t) :
    (t.slot i).state = (s.slot i).state := by
  rw [(exec_editedAt h).state_of_validSlot]
  split
  · next hfree => exact hfree.symm
  · rfl

/-- A control command leaves the slots alone that its identifier does not name. -/
theorem exec_control_slot_of_ne {n : Nat} (hne : n ≠ i.val)
    (h : exec (.delete n) s = .next t ∨ exec (.enable n) s = .next t ∨
      exec (.disable n) s = .next t ∨ exec (.restart n) s = .next t) : t.slot i = s.slot i := by
  have hother : s.validSlot n ≠ some i := fun hvalid =>
    hne (State.validSlot_eq_some.1 hvalid).1.symm
  rcases h with h | h | h | h <;> exact (exec_editedAt h).slot_eq_of_ne hother

theorem State.onValidSlot_val {f : SlotId → State → State} (ha : (s.slot i).alloc = true) :
    s.onValidSlot i.val f = (f i s).setStatus .ok := by
  rw [State.onValidSlot, State.validSlot_val ha]

/-! The engine and `DONE` -/

theorem step_of_engineMoves (hmoves : s.EngineMoves) :
    ∃ rest, step s = .next (State.engineTurn { s with schedule := rest }) := by
  cases hs : s.schedule with
  | nil => exact ⟨[], by rw [step_nil hs, ← hs]⟩
  | cons e rest =>
    rcases hmoves with hmoves | hmoves <;> rw [hs] at hmoves <;> cases hmoves
    exact ⟨rest, step_engine hs⟩

/-- R95: the engine's turn, a firing included, changes no slot's state. -/
theorem step_engine_state (hmoves : s.EngineMoves) (h : step s = .next t) :
    (t.slot i).state = (s.slot i).state := by
  obtain ⟨rest, hstep⟩ := step_of_engineMoves hmoves
  rw [hstep] at h
  cases h
  rw [State.engineTurn_editedAt _ i]
  split <;> rfl

/-- R95, R106: where the `DONE` of a firing leaves the slot that fired, by its kind. -/
theorem exec_done_state (h : exec .done s = .next t) (hwait : s.engine.phase = .waitCb)
    (hidx : s.engine.scanIdx = i) (hcur : s.engine.curLive = true) :
    (t.slot i).state =
      match (s.slot i).kind with
      | .forever => (s.slot i).state
      | .ntimes => if 0 < ((s.slot i).count - 1).toInt then (s.slot i).state else .free
      | .once => .free := by
  have htarget : commandTarget .done s = some i := by
    rw [commandTarget, if_pos ⟨hwait, hcur⟩, hidx]
  rw [(exec_editedAt h).slot_eq htarget, commandWrites]
  rcases (s.slot i).postFire_cases with ⟨hk, hx⟩ | ⟨hk, hmore, hx⟩ | ⟨hk, hlast, hx⟩ | ⟨hk, hx⟩ <;>
    rw [hx, hk]
  · rfl
  · exact (if_pos hmore).symm
  · exact (if_neg hlast).symm
  · rfl

end Commands

/-- Settles O22: the table of R95, event by event. -/
theorem slotStateMachine : Obligations.SlotStateMachine := by
  intro s t i _
  refine ⟨fun k p => exec_createInstr_state, exec_delete_state, exec_enable_state,
    exec_disable_state, exec_restart_state, fun n => exec_control_slot_of_ne, step_engine_state,
    fun h hwait hidx hcur _ => exec_done_state h hwait hidx hcur, fun hreset h => ?_⟩
  rw [step_reset_slot hreset h]
  rfl

/-- Settles O16: once freed, the index is the least FREE one. -/
theorem freedIndexIsGivenOutAgain : Obligations.FreedIndexIsGivenOutAgain := by
  intro s t i k p hbelow hlegal hdelete
  have hfreed := exec_editedAt hdelete
  have hvalid := State.validSlot_val (hbelow i le_rfl)
  have hother {j : SlotId} (hj : j ≠ i) : t.slot j = s.slot j :=
    exec_control_slot_of_ne (fun hij => hj (Fin.ext hij.symm)) (.inl hdelete)
  have hfirst : t.IsFirstFree i := by
    refine ⟨by rw [hfreed.slot_eq hvalid]; rfl, fun j hj => ?_⟩
    rw [hother hj.ne]
    exact hbelow j hj.le
  have hlegal' : t.OperandsLegal k := by
    rw [State.OperandsLegal, exec_args hdelete]
    exact hlegal
  have hcreate := exec_createInstr k p t
  refine ⟨t.create k p, hcreate, ?_, ?_, ?_, fun j hj => ?_⟩
  · rw [State.create_of_isFirstFree hlegal' hfirst]; rfl
  · rw [State.create_of_isFirstFree hlegal' hfirst]; rfl
  · rw [exec_createInstr_state hcreate, if_pos ⟨hlegal', hfirst⟩]
  · rw [State.create_of_isFirstFree hlegal' hfirst, ← hother hj]
    exact State.setSlot_slot_of_ne _ _ hj

/-- Settles O18: a valid identifier, and what freeing its slot leaves. -/
theorem deleteFreesTheSlot : Obligations.DeleteFreesTheSlot := by
  intro s i ha
  rw [exec, execDelete, State.onValidSlot_val ha, State.deleteSlot_eq]
  rfl

end Sys2Proof.Machine

end

/-! ### Reading and writing the register window; reset (10_state.md R25 to R27, R30) -/

section

namespace Sys2Proof.Machine

/-! Reads -/

theorem step_read_reg {s : State} {rest : List Event} (r : Reg)
    (h : s.schedule = .read r.offset .word :: rest) :
    step s = .next { s with schedule := rest, out := .readData r.offset (s.regRead r) :: s.out } := by
  rw [step_read h, accessReg_offset]
  rfl

/-- Settles O7: each offset reaches its register. -/
theorem registerReadAnswers : Obligations.RegisterReadAnswers := by
  intro s rest off v hs hv
  rcases hv with ⟨rfl, rfl⟩ | ⟨rfl, rfl⟩ | ⟨rfl, rfl⟩ | ⟨rfl, rfl⟩ | ⟨rfl, rfl⟩ | ⟨rfl, rfl⟩ |
    ⟨rfl, rfl⟩ | ⟨rfl, rfl⟩
  · exact step_read_reg .cmd hs
  · exact step_read_reg .status hs
  · exact step_read_reg .result hs
  · exact step_read_reg .argPeriod hs
  · exact step_read_reg .argCount hs
  · exact step_read_reg .argCb hs
  · exact step_read_reg .argParam hs
  · exact step_read_reg .reserved hs

/-! FLAGS -/

theorem bitAt_getLsbD {k : Nat} (hk : k < 32) (b : Bool) (n : Nat) :
    (bitAt k b).getLsbD n = (b && decide (k = n)) := by
  cases b <;> simp [bitAt, BitVec.getLsbD_twoPow, hk]

/-- Which piece of state each bit of FLAGS shows (10_state.md R26). -/
theorem State.flagsWord_getLsbD (s : State) (n : Nat) :
    s.flagsWord.getLsbD n =
      (s.busy && decide (0 = n) || s.engine.tickPend && decide (1 = n) ||
        s.engine.overrun && decide (2 = n) || s.disp.valid && decide (3 = n) ||
        s.trig.armed && decide (4 = n) || s.trig.run && decide (5 = n)) := by
  simp only [State.flagsWord, BitVec.getLsbD_or]
  rw [bitAt_getLsbD, bitAt_getLsbD, bitAt_getLsbD, bitAt_getLsbD, bitAt_getLsbD, bitAt_getLsbD] <;>
    decide

theorem State.writeFlags_eq (s : State) (v : Word) :
    s.writeFlags v =
      s.setEngine { s.engine with overrun := s.engine.overrun && !v.getLsbD 2 } := by
  unfold State.writeFlags
  cases v.getLsbD 2 with
  | true => rw [if_pos rfl, Bool.not_true, Bool.and_false]
  | false => rw [if_neg nofun, Bool.not_false, Bool.and_true]; rfl

/-- Settles O8: FLAGS bit by bit, and the one bit a write of it can clear. -/
theorem flagsRegisterBits : Obligations.FlagsRegisterBits := by
  intro s rest
  refine ⟨fun hs => ⟨s.flagsWord, step_read_reg .flags hs, ?_⟩, fun v hs => ?_⟩
  · have hbusy : s.busy = decide (s.engine.phase ≠ .idle) := by
      unfold State.busy
      cases s.engine.phase <;> rfl
    simp only [State.flagsWord_getLsbD, ← hbusy]
    refine ⟨by simp, by simp, by simp, by simp, by simp, by simp, fun b hb => ?_⟩
    have hhigh {k : Nat} (hk : k < 6) : decide (k = b) = false := decide_eq_false (by omega)
    simp [hhigh]
  · rw [step_write (r := .flags) hs rfl nofun, State.regWrite, State.writeFlags_eq]
    rfl

/-! The dispatch registers -/

theorem State.whileDispatching_of_not_valid {s : State} (h : s.disp.valid = false) (v : Word) :
    s.whileDispatching v = 0 := by
  rw [State.whileDispatching, h]; rfl

theorem State.whileDispatching_of_valid {s : State} (h : s.disp.valid = true) (v : Word) :
    s.whileDispatching v = v := by
  rw [State.whileDispatching, if_pos h]

/-- A slot index fills the bits below bit 4 only. -/
theorem slotId_getLsbD (i : SlotId) {b : Nat} (hb : 4 ≤ b) :
    (BitVec.ofNat 32 i.val).getLsbD b = false := by
  have : i.val < 2 ^ b := i.isLt.trans_le (Nat.pow_le_pow_right (n := 2) (by decide) hb)
  rw [BitVec.getLsbD_ofNat, Nat.testBit_lt_two_pow this, Bool.and_false]

/-- The low four bits of DISP_INFO are the slot index, in each of the 32 cases. -/
theorem dispInfo_slot : ∀ (hasParam : Bool) (i : SlotId),
    ((bitAt 31 true ||| bitAt 8 hasParam ||| BitVec.ofNat 32 i.val).extractLsb' 0 4).toNat =
      i.val := by
  decide

/-- The fields of DISP_INFO (10_state.md R27). -/
theorem dispInfo_bits (hasParam : Bool) (i : SlotId) :
    let v := bitAt 31 true ||| bitAt 8 hasParam ||| BitVec.ofNat 32 i.val
    v.getLsbD 31 = true ∧ v.getLsbD 8 = hasParam ∧ (v.extractLsb' 0 4).toNat = i.val ∧
      ∀ b, 4 ≤ b → b ≠ 8 → b ≠ 31 → v.getLsbD b = false := by
  intro v
  have hbit {b : Nat} (hb : 4 ≤ b) :
      v.getLsbD b = (decide (31 = b) || hasParam && decide (8 = b)) := by
    rw [BitVec.getLsbD_or, BitVec.getLsbD_or, slotId_getLsbD i hb, bitAt_getLsbD (by decide),
      bitAt_getLsbD (by decide), Bool.true_and, Bool.or_false]
  refine ⟨?_, ?_, ?_, fun b hb h8 h31 => ?_⟩
  · rw [hbit (by decide)]; rfl
  · rw [hbit (by decide)]; simp
  · exact dispInfo_slot hasParam i
  · rw [hbit hb, decide_eq_false h31.symm, decide_eq_false h8.symm, Bool.and_false]; rfl

/-- Settles O9: a view of the latches while a dispatch is outstanding, 0 otherwise. -/
theorem dispatchRegistersShowTheLatches : Obligations.DispatchRegistersShowTheLatches := by
  intro s rest off hoff hs
  rcases hoff with rfl | rfl | rfl
  · refine ⟨_, step_read_reg .dispInfo hs, fun hv => State.whileDispatching_of_not_valid hv _,
      fun hv => ⟨fun _ => ?_, nofun, nofun⟩⟩
    rw [State.regRead, State.dispInfoWord, State.whileDispatching_of_valid hv]
    exact dispInfo_bits _ _
  · exact ⟨_, step_read_reg .dispCb hs, fun hv => State.whileDispatching_of_not_valid hv _,
      fun hv => ⟨nofun, fun _ => State.whileDispatching_of_valid hv _, nofun⟩⟩
  · exact ⟨_, step_read_reg .dispParam hs, fun hv => State.whileDispatching_of_not_valid hv _,
      fun hv => ⟨nofun, nofun, fun _ => State.whileDispatching_of_valid hv _⟩⟩

/-! Writes, and reset -/

/-- Settles O11: the stored word is read back from the same register. -/
theorem operandRegistersReadBack : Obligations.OperandRegistersReadBack := by
  intro s off v rest hoff hs
  refine ⟨_, rfl, ?_⟩
  rcases hoff with rfl | rfl | rfl | rfl
  · exact ⟨step_write (r := .argPeriod) hs rfl nofun, fun _ h => step_read_reg .argPeriod h⟩
  · exact ⟨step_write (r := .argCount) hs rfl nofun, fun _ h => step_read_reg .argCount h⟩
  · exact ⟨step_write (r := .argCb) hs rfl nofun, fun _ h => step_read_reg .argCb h⟩
  · exact ⟨step_write (r := .argParam) hs rfl nofun, fun _ h => step_read_reg .argParam h⟩

/-- Settles O56: the slots are those of `Slot.reset`, every other value stands in the definition. -/
theorem resetValues : Obligations.ResetValues := by
  refine ⟨fun i => ?_, rfl, rfl, rfl, rfl, rfl, rfl, rfl, rfl, rfl, rfl⟩
  rw [State.reset_slot]
  exact ⟨rfl, rfl⟩

/-- A `DONE` without an outstanding dispatch (42_tick_scan.md R105). -/
theorem exec_done_of_phase_ne {s : State} (h : s.engine.phase ≠ .waitCb) :
    exec .done s = .next { s with status := .invalid } :=
  if_neg h

/-- Settles O57: the state after a reset, and a `DONE` outside WAIT_CB. -/
theorem resetFromAnyState : Obligations.ResetFromAnyState := by
  intro s rest hs
  refine ⟨_, step_rst hs, fun i => ?_, rfl, rfl, rfl, rfl, rfl, rfl, rfl, rfl, rfl, rfl, rfl, rfl,
    ?_⟩
  · rw [State.resetBlock_slot]
    exact ⟨rfl, rfl⟩
  · exact exec_done_of_phase_ne nofun

end Sys2Proof.Machine

end

/-! ### The access rules of the register window (20_memory.md) -/

section

namespace Sys2Proof.Machine

/-! Which accesses reach a register -/

/-- The window is twelve aligned words (20_memory.md R41). -/
theorem Reg.offset_inWindow (r : Reg) : r.offset % 4 = 0 ∧ r.offset < 0x30 := by
  cases r <;> decide

/-- No two registers share an offset: each access reaches one (20_memory.md R41). -/
theorem Reg.offset_injective {q r : Reg} (h : q.offset = r.offset) : q = r := by
  have hq := accessReg_offset q
  rw [h, accessReg_offset r] at hq
  cases hq
  rfl

/-- Every aligned word of the window is a register, so an aligned offset without one lies outside
(20_memory.md R41, R42). -/
theorem Reg.le_of_ofOffset_eq_none {off : Nat} (halign : off % 4 = 0)
    (h : Reg.ofOffset off = none) : 0x30 ≤ off := by
  by_contra hlt
  have htotal : ∀ k < 12, Reg.ofOffset (4 * k) ≠ none := by decide
  refine htotal (off / 4) (by omega) ?_
  rwa [Nat.mul_div_cancel' (Nat.dvd_of_mod_eq_zero halign)]

/-- What an access that reaches no register is, and the names of its refusal (20_memory.md R41,
R43; log entry 11). -/
theorem accessReg_eq_error {off : Nat} {width : AccessWidth} {q : Refusal}
    (h : accessReg off width = .error q) :
    (off % 4 ≠ 0 ∨ width ≠ .word ∨ 0x30 ≤ off) ∧
      (q = .accessWidth ∨ q = .misaligned ∨ q = .outsideWindow) := by
  unfold accessReg at h
  split at h
  · next hwidth => cases h; exact ⟨.inr (.inl hwidth), .inl rfl⟩
  · split at h
    · next halign => cases h; exact ⟨.inl halign, .inr (.inl rfl)⟩
    · next halign =>
      split at h
      · cases h
      · next hnone =>
        cases h
        exact ⟨.inr (.inr (Reg.le_of_ofOffset_eq_none (not_not.1 halign) hnone)),
          .inr (.inr rfl)⟩

/-- Settles O14: BASE and every offset are multiples of 4, and offsets tell the registers apart. -/
theorem registerBusAddresses : Obligations.RegisterBusAddresses := by
  have hbase : Config.base % 4 = 0 := Nat.mul_mod_right 4 _
  refine ⟨hbase, fun r => ?_⟩
  obtain ⟨halign, hlt⟩ := r.offset_inWindow
  refine ⟨?_, Nat.le_add_right _ _, Nat.add_lt_add_left hlt _,
    fun q hq => Reg.offset_injective (Nat.add_left_cancel hq)⟩
  rw [Reg.busAddress, Nat.add_mod, hbase, halign]

/-! What an access comes to -/

/-- Every command has a next state, whatever the state: none faults, none is refused. -/
theorem exec_answers (i : Instr) (s : State) : ∃ t, exec i s = .next t := by
  cases i with
  | createOnce p | createForever p | createN p => exact ⟨_, rfl⟩
  | delete n | enable n | disable n | restart n => exact ⟨_, rfl⟩
  | tick | tstop => exact ⟨_, rfl⟩
  | done => simp only [exec, execDone]; split <;> exact ⟨_, rfl⟩
  | tarm => simp only [exec, execTarm]; split <;> exact ⟨_, rfl⟩
  | tstart => simp only [exec, execTstart]; split <;> exact ⟨_, rfl⟩
  | trestart => simp only [exec, execTrestart]; split <;> exact ⟨_, rfl⟩

section Access

variable {s t : State} {off : Nat} {width : AccessWidth} {v : Word} {e : Event} {rest : List Event}

/-- A write to `CMD` is answered, be the word a command or reserved (30_encoding.md R66, R67). -/
theorem step_cmdWrite_answers (hs : s.schedule = cmdWrite v :: rest) : ∃ t, step s = .next t := by
  rw [step_cmdWrite hs]
  cases decode v with
  | ok i => exact exec_answers i _
  | error _ => exact ⟨_, rfl⟩

/-- An access that reaches a register is answered (20_memory.md R42). -/
theorem step_access_answers {r : Reg} (he : e = .read off width ∨ e = .write off width v)
    (hs : s.schedule = e :: rest) (hr : accessReg off width = .ok r) : ∃ t, step s = .next t := by
  rcases he with rfl | rfl
  · rw [step_read hs, hr]; exact ⟨_, rfl⟩
  · by_cases hc : r = .cmd
    · obtain ⟨rfl, rfl⟩ := accessReg_eq_ok hr
      subst hc
      exact step_cmdWrite_answers hs
    · exact ⟨_, step_write hs hr hc⟩

/-- An access that reaches none is refused (20_memory.md R43). -/
theorem step_access_refused {q : Refusal} (he : e = .read off width ∨ e = .write off width v)
    (hs : s.schedule = e :: rest) (hq : accessReg off width = .error q) : step s = .refused q := by
  rcases he with rfl | rfl
  · rw [step_read hs, hq]
  · exact step_write_refused hs hq

/-- What an answered read was, and all it leaves (20_memory.md R44). -/
theorem step_read_next (h : step s = .next t) (hs : s.schedule = .read off width :: rest) :
    ∃ r : Reg, off = r.offset ∧
      t = { s with schedule := rest, out := .readData off (s.regRead r) :: s.out } := by
  rw [step_read hs] at h
  split at h
  · cases h
  · next r hr => cases h; exact ⟨r, (accessReg_eq_ok hr).2, rfl⟩

/-- What an answered write outside `CMD` was: it stores in the one register it reaches. -/
theorem step_write_next (h : step s = .next t) (hs : s.schedule = .write off width v :: rest)
    (hoff : off ≠ 0x00) :
    ∃ r : Reg, off = r.offset ∧ t = State.regWrite { s with schedule := rest } v r := by
  cases hr : accessReg off width with
  | error q => rw [step_write_refused hs hr] at h; cases h
  | ok r =>
    obtain ⟨-, rfl⟩ := accessReg_eq_ok hr
    have hcmd : r ≠ .cmd := by rintro rfl; exact hoff rfl
    rw [step_write hs hr hcmd] at h
    cases h
    exact ⟨r, rfl, rfl⟩

end Access

/-- Settles O13: an access is answered or refused as it reaches a register or none. -/
theorem onlyAlignedWordsAreAccepted : Obligations.OnlyAlignedWordsAreAccepted := by
  intro s off width v rest e he hs
  cases hr : accessReg off width with
  | ok r =>
    obtain ⟨t, ht⟩ := step_access_answers he hs hr
    obtain ⟨rfl, rfl⟩ := accessReg_eq_ok hr
    obtain ⟨halign, hlt⟩ := r.offset_inWindow
    refine ⟨iff_of_false ?_ ?_, fun _ => ⟨t, ht⟩⟩
    · rintro (h | h | h)
      · exact h halign
      · exact h rfl
      · exact Nat.not_le.2 hlt h
    · rw [ht]; rintro (h | h | h) <;> cases h
  | error q =>
    obtain ⟨hbad, hname⟩ := accessReg_eq_error hr
    have hstep := step_access_refused he hs hr
    refine ⟨iff_of_true hbad ?_, ?_⟩
    · rcases hname with rfl | rfl | rfl
      · exact .inl hstep
      · exact .inr (.inl hstep)
      · exact .inr (.inr hstep)
    · rintro ⟨halign, hword, hlt⟩
      rcases hbad with h | h | h
      · exact absurd halign h
      · exact absurd hword h
      · exact absurd h (Nat.not_le.2 hlt)

/-! What a write can change -/

/-- Only the operand registers are stored in by a write (20_memory.md R44). -/
theorem State.regWrite_args_of_ne {s : State} {v : Word} {r : Reg}
    (h : (s.regWrite v r).args ≠ s.args) :
    r.offset = 0x0C ∨ r.offset = 0x10 ∨ r.offset = 0x14 ∨ r.offset = 0x18 := by
  cases r with
  | argPeriod => exact .inl rfl
  | argCount => exact .inr (.inl rfl)
  | argCb => exact .inr (.inr (.inl rfl))
  | argParam => exact .inr (.inr (.inr rfl))
  | flags => exact absurd (s.writeFlags_args v) h
  | cmd | status | result | dispInfo | dispCb | dispParam | reserved => exact absurd rfl h

/-- Only FLAGS reaches `overrun`, and only its bit 2 clears it (20_memory.md R44). -/
theorem State.regWrite_overrun_of_ne {s : State} {v : Word} {r : Reg}
    (h : (s.regWrite v r).engine.overrun ≠ s.engine.overrun) :
    r = .flags ∧ v.getLsbD 2 = true ∧ (s.regWrite v r).engine.overrun = false := by
  cases r with
  | flags =>
    rw [State.regWrite, State.writeFlags_eq, State.setEngine_engine] at h ⊢
    cases hbit : v.getLsbD 2 with
    | true => exact ⟨rfl, rfl, Bool.and_false _⟩
    | false => rw [hbit] at h; exact absurd (Bool.and_true _) h
  | cmd | status | result | dispInfo | dispCb | dispParam | reserved => exact absurd rfl h
  | argPeriod | argCount | argCb | argParam => exact absurd rfl h

/-- Settles O12: an answered read shows its value, an answered write is a register's. -/
theorem accessSideEffects : Obligations.AccessSideEffects := by
  intro s t off width rest h
  refine ⟨fun hs => ?_, fun v hs hoff => ?_⟩
  · obtain ⟨r, -, ht⟩ := step_read_next h hs
    exact ⟨s.regRead r, ht⟩
  · obtain ⟨r, rfl, rfl⟩ := step_write_next h hs hoff
    refine ⟨State.regWrite_eq _ v r, State.regWrite_args_of_ne, fun hne => ?_⟩
    obtain ⟨rfl, hbit, hclear⟩ := State.regWrite_overrun_of_ne hne
    exact ⟨rfl, hbit, hclear⟩

/-- Settles O10: a write of such a register keeps the state, and both reads give 0. -/
theorem readOnlyRegistersIgnoreWrites : Obligations.ReadOnlyRegistersIgnoreWrites := by
  intro s rest off
  refine ⟨fun v hoff hs => ?_, fun hoff hs => ?_⟩
  · rcases hoff with rfl | rfl | rfl | rfl | rfl | rfl
    · exact step_write (r := .status) hs rfl nofun
    · exact step_write (r := .result) hs rfl nofun
    · exact step_write (r := .dispInfo) hs rfl nofun
    · exact step_write (r := .dispCb) hs rfl nofun
    · exact step_write (r := .dispParam) hs rfl nofun
    · exact step_write (r := .reserved) hs rfl nofun
  · rcases hoff with rfl | rfl
    · exact step_read_reg .cmd hs
    · exact step_read_reg .reserved hs

/-- Settles O6: the write of a word that decodes is the command's own meaning. -/
theorem stepRunsTheDecodedCommand : Obligations.StepRunsTheDecodedCommand := by
  intro s w i rest hs hdecode
  rw [step_cmdWrite (w := w) hs, hdecode]

end Sys2Proof.Machine

end

/-! ### The encoder and the decoder are inverse to each other (30_encoding.md R60 to R62) -/

section

namespace Sys2Proof

theorem fieldKind_lt (w : Word) : fieldKind w < 4 := (w.extractLsb' 4 2).isLt

theorem fieldSlot_lt (w : Word) : fieldSlot w < 256 := (w.extractLsb' 8 8).isLt

/-- A word with bits [31:16] and [7] clear is read by the opcode map alone (30_encoding.md R62). -/
theorem decode_of_reserved_bits_clear {w : Word} (hhigh : fieldHigh w = 0)
    (hbit7 : fieldBit7 w = false) :
    decode w = decodeOp (fieldOp w) (fieldKind w) (fieldP w) (fieldSlot w) := by
  simp [decode, hhigh, hbit7]

/-- The opcode map sees exactly the fields a word was made from. -/
theorem decode_wordOf {op kind slot : Nat} {p : Bool} (hop : op < 16) (hkind : kind < 4)
    (hslot : slot < 256) : decode (wordOf op kind p slot) = decodeOp op kind p slot := by
  obtain ⟨hhigh, hbit7⟩ := wordOf_reserved_bits (p := p) hop hkind hslot
  rw [decode_of_reserved_bits_clear hhigh hbit7, fieldOp_wordOf hop hkind hslot,
    fieldKind_wordOf hop hkind hslot, fieldP_wordOf hop hkind hslot, fieldSlot_wordOf hop hkind hslot]

theorem decode_encode {i : Instr} (hwf : i.wf = true) : decode (encode i) = .ok i := by
  cases i with
  | createOnce p | createForever p | createN p =>
    exact decode_wordOf (by decide) (by decide) (by decide)
  | delete n | enable n | disable n | restart n =>
    exact decode_wordOf (by decide) (by decide) (slotFieldFits_lt hwf)
  | tick | done | tarm | tstart | tstop | trestart =>
    exact decode_wordOf (by decide) (by decide) (by decide)

/-- Settles O3: the opcode map undoes the encoder, command by command. -/
theorem decodeOfEncode : Obligations.DecodeOfEncode := fun _ => decode_encode

/-! Only well-formed commands are decoded to -/

theorem wf_of_decodeCreate {kind slot : Nat} {p : Bool} {i : Instr}
    (h : decodeCreate kind p slot = .ok i) : i.wf = true := by
  unfold decodeCreate at h
  split at h
  · cases h
  · split at h <;> cases h <;> rfl

theorem wf_of_decodeOp {op kind slot : Nat} {p : Bool} {i : Instr} (hslot : slot < 256)
    (h : decodeOp op kind p slot = .ok i) : i.wf = true := by
  unfold decodeOp at h
  split at h
  case h_1 => exact wf_of_decodeCreate h
  case h_2 | h_3 | h_4 | h_5 =>
    obtain ⟨-, -, rfl⟩ := decodeControl_eq_ok h; exact decide_eq_true hslot
  case h_6 | h_7 | h_8 | h_9 | h_10 | h_11 =>
    obtain ⟨-, -, -, rfl⟩ := decodePlain_eq_ok h; rfl
  case h_12 => cases h

theorem wf_of_decode {w : Word} {i : Instr} (h : decode w = .ok i) : i.wf = true := by
  unfold decode at h
  split at h
  · cases h
  · split at h
    · cases h
    · exact wf_of_decodeOp (fieldSlot_lt w) h

/-- Settles O4: the slot field bounds the operand, and the encoder writes every field back. -/
theorem encodeOfDecode : Obligations.EncodeOfDecode :=
  fun _ _ h => ⟨wf_of_decode h, encode_of_decode h⟩

/-- Settles O1: the decoder, evaluated at each word. -/
theorem wordsDecodeToTheirCommands : Obligations.WordsDecodeToTheirCommands := by
  unfold Obligations.WordsDecodeToTheirCommands
  decide

/-- A word is a command iff it is the word of that command, the command being well-formed. -/
theorem decode_eq_ok_iff {w : Word} {i : Instr} :
    decode w = .ok i ↔ i.wf = true ∧ encode i = w := by
  refine ⟨encodeOfDecode w i, ?_⟩
  rintro ⟨hwf, rfl⟩
  exact decode_encode hwf

end Sys2Proof

end

/-! ### The rows of the opcode map as match and mask (30_encoding.md R62) -/

section

namespace Sys2Proof

/-- A word is made of given fields iff those are its fields and its reserved bits are clear. -/
theorem wordOf_eq_iff {w : Word} {op kind slot : Nat} {p : Bool} (hop : op < 16) (hkind : kind < 4)
    (hslot : slot < 256) :
    wordOf op kind p slot = w ↔
      (fieldHigh w = 0 ∧ fieldBit7 w = false) ∧
        fieldOp w = op ∧ fieldKind w = kind ∧ fieldP w = p ∧ fieldSlot w = slot := by
  constructor
  · rintro rfl
    exact ⟨wordOf_reserved_bits hop hkind hslot, fieldOp_wordOf hop hkind hslot,
      fieldKind_wordOf hop hkind hslot, fieldP_wordOf hop hkind hslot,
      fieldSlot_wordOf hop hkind hslot⟩
  · rintro ⟨⟨hhigh, hbit7⟩, rfl, rfl, rfl, rfl⟩
    exact wordOf_fields hhigh hbit7

/-! A mask keeps or clears a whole field. -/

theorem slice_and (w m : Word) (hi lo : Nat) :
    slice (w &&& m) hi lo = slice w hi lo &&& slice m hi lo := by
  rw [slice, BitVec.extractLsb'_and, BitVec.toNat_and]; rfl

theorem slice_and_of_ones {m : Word} {hi lo : Nat} (w : Word)
    (hm : slice m hi lo = 2 ^ (hi - lo + 1) - 1) : slice (w &&& m) hi lo = slice w hi lo := by
  rw [slice_and, hm, Nat.and_two_pow_sub_one_eq_mod]
  exact Nat.mod_eq_of_lt (w.extractLsb' lo _).isLt

theorem slice_and_of_zero {m : Word} {hi lo : Nat} (w : Word) (hm : slice m hi lo = 0) :
    slice (w &&& m) hi lo = 0 := by
  rw [slice_and, hm, Nat.and_zero]

theorem getLsbD_and_of_set {m : Word} {b : Nat} (w : Word) (hm : m.getLsbD b = true) :
    (w &&& m).getLsbD b = w.getLsbD b := by
  rw [BitVec.getLsbD_and, hm, Bool.and_true]

/-- The mask of a create row clears `P` and keeps every other field. -/
theorem wordOf_eq_and_createMask_iff {w : Word} {op kind slot : Nat} (hop : op < 16)
    (hkind : kind < 4) (hslot : slot < 256) :
    wordOf op kind false slot = w &&& 0xFFFFFFBF#32 ↔
      (fieldHigh w = 0 ∧ fieldBit7 w = false) ∧
        fieldOp w = op ∧ fieldKind w = kind ∧ fieldSlot w = slot := by
  have hp : fieldP (w &&& 0xFFFFFFBF#32) = false := by simp [fieldP]
  simp only [wordOf_eq_iff hop hkind hslot, hp, true_and]
  rw [fieldHigh, slice_and_of_ones w rfl, fieldBit7, getLsbD_and_of_set w rfl,
    fieldOp, slice_and_of_ones w rfl, fieldKind, slice_and_of_ones w rfl,
    fieldSlot, slice_and_of_ones w rfl]
  rfl

/-- The mask of a control row clears `slot` and keeps every other field. -/
theorem wordOf_eq_and_controlMask_iff {w : Word} {op kind : Nat} {p : Bool} (hop : op < 16)
    (hkind : kind < 4) :
    wordOf op kind p 0 = w &&& 0xFFFF00FF#32 ↔
      (fieldHigh w = 0 ∧ fieldBit7 w = false) ∧
        fieldOp w = op ∧ fieldKind w = kind ∧ fieldP w = p := by
  have hslot : fieldSlot (w &&& 0xFFFF00FF#32) = 0 := slice_and_of_zero w rfl
  simp only [wordOf_eq_iff hop hkind (show 0 < 256 by decide), hslot, and_true]
  rw [fieldHigh, slice_and_of_ones w rfl, fieldBit7, getLsbD_and_of_set w rfl,
    fieldOp, slice_and_of_ones w rfl, fieldKind, slice_and_of_ones w rfl,
    fieldP, getLsbD_and_of_set w rfl]
  rfl

/-! The rows, and the operand each free field holds -/

section Rows

variable {w : Word} {op kind : Nat} {create : Bool → Instr} {control : Nat → Instr}

theorem exists_decode_create_iff (hkind : kind < 4) (hwf : ∀ p, (create p).wf = true)
    (henc : ∀ p, encode (create p) = wordOf 1 kind p 0) :
    (∃ p, decode w = .ok (create p)) ↔ w &&& 0xFFFFFFBF#32 = wordOf 1 kind false 0 := by
  simp only [decode_eq_ok_iff, hwf, henc, true_and]
  rw [eq_comm, wordOf_eq_and_createMask_iff (by decide) hkind (by decide)]
  simp [wordOf_eq_iff (show 1 < 16 by decide) hkind (show 0 < 256 by decide)]

theorem exists_decode_control_iff (hop : op < 16) (hwf : ∀ n, (control n).wf = slotFieldFits n)
    (henc : ∀ n, encode (control n) = wordOf op 0 false n) :
    (∃ n, decode w = .ok (control n)) ↔ w &&& 0xFFFF00FF#32 = wordOf op 0 false 0 := by
  simp only [decode_eq_ok_iff, hwf, henc]
  rw [eq_comm, wordOf_eq_and_controlMask_iff hop (by decide)]
  constructor
  · rintro ⟨n, hn, hw⟩
    obtain ⟨hclear, hopcode, hkind, hp, -⟩ :=
      (wordOf_eq_iff hop (by decide) (slotFieldFits_lt hn)).1 hw
    exact ⟨hclear, hopcode, hkind, hp⟩
  · rintro ⟨hclear, hopcode, hkind, hp⟩
    exact ⟨fieldSlot w, decide_eq_true (fieldSlot_lt w),
      (wordOf_eq_iff hop (by decide) (fieldSlot_lt w)).2 ⟨hclear, hopcode, hkind, hp, rfl⟩⟩

/-- A command without operand is one word: its mask keeps all bits. -/
theorem decode_plain_iff {i : Instr} (hwf : i.wf = true) :
    decode w = .ok i ↔ w &&& 0xFFFFFFFF#32 = encode i := by
  have hmask : w &&& 0xFFFFFFFF#32 = w := BitVec.and_allOnes
  rw [decode_eq_ok_iff, hmask, eq_comm (a := w)]
  exact and_iff_right hwf

theorem eq_fieldP_of_decode_create {p : Bool} (hkind : kind < 4)
    (henc : encode (create p) = wordOf 1 kind p 0) (h : decode w = .ok (create p)) :
    p = fieldP w := by
  rw [← encode_of_decode h, henc, fieldP_wordOf (by decide) hkind (by decide)]

theorem eq_fieldSlot_of_decode_control {n : Nat} (hop : op < 16)
    (hwf : (control n).wf = slotFieldFits n) (henc : encode (control n) = wordOf op 0 false n)
    (h : decode w = .ok (control n)) : n = fieldSlot w := by
  have hn : n < 256 := slotFieldFits_lt (hwf ▸ wf_of_decode h)
  rw [← encode_of_decode h, henc, fieldSlot_wordOf hop (by decide) hn]

end Rows

/-- Settles O2: one row lemma per format, at each command's opcode and kind. -/
theorem decodeFollowsMatchAndMask : Obligations.DecodeFollowsMatchAndMask := by
  intro w
  refine ⟨exists_decode_create_iff (kind := 0) (by decide) (fun _ => rfl) (fun _ => rfl),
    exists_decode_create_iff (kind := 1) (by decide) (fun _ => rfl) (fun _ => rfl),
    exists_decode_create_iff (kind := 2) (by decide) (fun _ => rfl) (fun _ => rfl),
    exists_decode_control_iff (op := 2) (by decide) (fun _ => rfl) (fun _ => rfl),
    exists_decode_control_iff (op := 3) (by decide) (fun _ => rfl) (fun _ => rfl),
    exists_decode_control_iff (op := 4) (by decide) (fun _ => rfl) (fun _ => rfl),
    exists_decode_control_iff (op := 5) (by decide) (fun _ => rfl) (fun _ => rfl),
    decode_plain_iff rfl, decode_plain_iff rfl, decode_plain_iff rfl, decode_plain_iff rfl,
    decode_plain_iff rfl, decode_plain_iff rfl, fun p h => ?_, fun n h => ?_⟩
  · rcases h with h | h | h
    · exact eq_fieldP_of_decode_create (kind := 0) (by decide) rfl h
    · exact eq_fieldP_of_decode_create (kind := 1) (by decide) rfl h
    · exact eq_fieldP_of_decode_create (kind := 2) (by decide) rfl h
  · rcases h with h | h | h | h
    · exact eq_fieldSlot_of_decode_control (op := 2) (by decide) rfl rfl h
    · exact eq_fieldSlot_of_decode_control (op := 3) (by decide) rfl rfl h
    · exact eq_fieldSlot_of_decode_control (op := 4) (by decide) rfl rfl h
    · exact eq_fieldSlot_of_decode_control (op := 5) (by decide) rfl rfl h

end Sys2Proof

end

/-! ### The reserved words (30_encoding.md R66) -/

section

namespace Sys2Proof

/-- The high field is nonzero iff one of bits [31:16] is set. -/
theorem fieldHigh_ne_zero_iff {w : Word} :
    fieldHigh w ≠ 0 ↔ ∃ b, 16 ≤ b ∧ b < 32 ∧ w.getLsbD b = true := by
  rw [fieldHigh_eq]
  constructor
  · intro hhigh
    have hge : 2 ^ 16 ≤ w.toNat := by omega
    obtain ⟨b, hb, hbit⟩ := Nat.exists_ge_and_testBit_of_ge_two_pow hge
    exact ⟨b, hb, BitVec.lt_of_getLsbD hbit, hbit⟩
  · rintro ⟨b, hb, -, hbit⟩
    have hge : 2 ^ b ≤ w.toNat := Nat.ge_two_pow_of_testBit hbit
    have hpow : 2 ^ 16 ≤ 2 ^ b := Nat.pow_le_pow_right (by decide) hb
    omega

theorem exists_decodeCreate_eq_error_iff {kind slot : Nat} {p : Bool} (hkind : kind < 4) :
    (∃ e, decodeCreate kind p slot = .error e) ↔ kind = 3 ∨ slot ≠ 0 := by
  by_cases hslot : slot = 0
  · subst hslot
    interval_cases kind <;> simp [decodeCreate]
  · simp [decodeCreate, hslot]

theorem exists_decodeControl_eq_error_iff {kind : Nat} {p : Bool} {i : Instr} :
    (∃ e, decodeControl kind p i = .error e) ↔ kind ≠ 0 ∨ p = true := by
  unfold decodeControl
  split
  · next h => exact iff_of_true ⟨_, rfl⟩ h
  · next h => exact iff_of_false nofun h

theorem exists_decodePlain_eq_error_iff {kind slot : Nat} {p : Bool} {i : Instr} :
    (∃ e, decodePlain kind p slot i = .error e) ↔ kind ≠ 0 ∨ p = true ∨ slot ≠ 0 := by
  unfold decodePlain
  split
  · next h => exact iff_of_true ⟨_, rfl⟩ h
  · next h => exact iff_of_false nofun h

/-- Which field values below bit 16 the opcode map refuses, format by format. -/
theorem exists_decodeOp_eq_error_iff {op kind slot : Nat} {p : Bool} (hkind : kind < 4) :
    (∃ e, decodeOp op kind p slot = .error e) ↔
      (op = 0 ∨ 12 ≤ op) ∨ (op = 1 ∧ (kind = 3 ∨ slot ≠ 0)) ∨
      (2 ≤ op ∧ op ≤ 5 ∧ (kind ≠ 0 ∨ p = true)) ∨
      (6 ≤ op ∧ op ≤ 11 ∧ (kind ≠ 0 ∨ p = true ∨ slot ≠ 0)) := by
  unfold decodeOp
  split
  case h_1 => simp [exists_decodeCreate_eq_error_iff hkind]
  case h_2 | h_3 | h_4 | h_5 => simp [exists_decodeControl_eq_error_iff]
  case h_6 | h_7 | h_8 | h_9 | h_10 | h_11 => simp [exists_decodePlain_eq_error_iff]
  case h_12 => exact iff_of_true ⟨_, rfl⟩ (.inl (by grind))

theorem exists_decode_eq_error_iff {w : Word} :
    (∃ e, decode w = .error e) ↔
      fieldHigh w ≠ 0 ∨ fieldBit7 w = true ∨
        ∃ e, decodeOp (fieldOp w) (fieldKind w) (fieldP w) (fieldSlot w) = .error e := by
  unfold decode
  split
  · next hhigh => exact iff_of_true ⟨_, rfl⟩ (.inl hhigh)
  · next hhigh =>
    split
    · next hbit7 => exact iff_of_true ⟨_, rfl⟩ (.inr (.inl hbit7))
    · next hbit7 => simp [hhigh, hbit7]

end Sys2Proof

namespace Sys2Proof.Machine

/-- Settles O5: the decoder's three tests are the clauses of R66, and the write is a status. -/
theorem reservedWordOnlySetsStatus : Obligations.ReservedWordOnlySetsStatus := by
  refine ⟨fun w => ?_, fun s w e rest hs hdecode => ?_⟩
  · intro op kind p slot
    rw [exists_decode_eq_error_iff, fieldHigh_ne_zero_iff,
      exists_decodeOp_eq_error_iff (fieldKind_lt w)]
    exact (or_congr_right or_left_comm).trans or_left_comm
  · rw [step_cmdWrite (w := w) hs, hdecode]; rfl

end Sys2Proof.Machine

end

/-! ### The create procedure (40_slot_create.md R80) -/

section

namespace Sys2Proof.Machine

section Create

variable {s : State} {k : Kind}

/-- A create whose operands fail, whatever the table holds (40_slot_create.md R80). -/
theorem State.create_of_not_operandsLegal (p : Bool) (hillegal : ¬ s.OperandsLegal k) :
    s.create k p = s.finishCreate noSlot .invalid := by
  rw [State.create, if_neg (mt createOperandsOk_iff.1 hillegal)]

/-- A create whose operands pass, on a full table (40_slot_create.md R80, R84 item 2). -/
theorem State.create_of_tableFull (p : Bool) (hlegal : s.OperandsLegal k) (hfull : s.TableFull) :
    s.create k p = s.finishCreate noSlot .full := by
  rw [State.create, if_pos (createOperandsOk_iff.2 hlegal), State.firstFree_eq_none.2 hfull]

end Create

/-- Settles O15: the three ends of a create, one by one. -/
theorem createProcedure : Obligations.CreateProcedure := by
  intro k p s
  rw [exec_createInstr]
  refine ⟨fun hillegal => ?_, fun hlegal hfull => ?_, fun i hlegal hfree hbelow => ?_⟩
  · rw [State.create_of_not_operandsLegal p hillegal]; rfl
  · rw [State.create_of_tableFull p hlegal hfull]; rfl
  · rw [State.create_of_isFirstFree hlegal ⟨hfree, hbelow⟩]
    -- The stored count is the one place where the kinds differ.
    cases k <;> rfl

end Sys2Proof.Machine

end

/-! ### The control commands (41_slot_control.md) -/

section

namespace Sys2Proof.Machine

/-- A control command on an identifier that names no occupied slot (41_slot_control.md R90). -/
theorem State.onValidSlot_of_not_validId {s : State} {n : Nat} {f : SlotId → State → State}
    (hinvalid : ¬ s.ValidId n) : s.onValidSlot n f = s.setStatus .ok := by
  rw [State.onValidSlot, State.validSlot_eq_none.2 hinvalid]

/-- Settles O17: all four commands look their slot up before anything else. -/
theorem invalidIdentifierIsNoOp : Obligations.InvalidIdentifierIsNoOp := by
  intro s n hinvalid
  have hnoop (f : SlotId → State → State) :
      Host.Outcome.next (φ := Fault) (ρ := Refusal) (s.onValidSlot n f) =
        .next { s with status := .ok } :=
    congrArg Host.Outcome.next (State.onValidSlot_of_not_validId hinvalid)
  exact ⟨hnoop _, hnoop _, hnoop _, hnoop _⟩

/-- Settles O19: the effect of `ENABLE` on the slot a valid identifier names. -/
theorem enableSetsEnabledOnly : Obligations.EnableSetsEnabledOnly := fun _ _ ha =>
  congrArg Host.Outcome.next (State.onValidSlot_val ha)

/-- Settles O20: the effect of `DISABLE` on the slot a valid identifier names. -/
theorem disableClearsEnabledOnly : Obligations.DisableClearsEnabledOnly := fun _ _ ha =>
  congrArg Host.Outcome.next (State.onValidSlot_val ha)

/-- Settles O21: the effect of `RESTART` on the slot a valid identifier names. -/
theorem restartReloadsOnly : Obligations.RestartReloadsOnly := fun _ _ ha =>
  congrArg Host.Outcome.next (State.onValidSlot_val ha)

/-- Settles O23: the `DONE` leaves the slot FREE, and then its index is no valid identifier. -/
theorem enableDoesNotReviveARetiredSlot : Obligations.EnableDoesNotReviveARetiredSlot := by
  intro s t hwait hcur hkind hdone
  have hfree : (t.slot s.engine.scanIdx).state = .free := by
    rw [exec_done_state hdone hwait rfl hcur]
    rcases hkind with hk | ⟨hk, hcount⟩ <;> rw [hk]
    exact if_neg (by rw [hcount]; decide)
  have hinvalid : ¬ t.ValidId s.engine.scanIdx.val := by
    rintro ⟨j, hj, ha⟩
    rw [Fin.ext hj, Slot.state_eq_free_iff.1 hfree] at ha
    cases ha
  obtain ⟨-, henable, -, -⟩ := invalidIdentifierIsNoOp t _ hinvalid
  exact ⟨hfree, henable⟩

/-! A dispatch whose slot was deleted -/

section Orphaned

variable {s t : State} {i : Instr}

/-- The slot under dispatch was deleted while its callback ran (41_slot_control.md R91). -/
def State.Orphaned (s : State) : Prop := s.engine.phase = .waitCb ∧ s.engine.curLive = false

theorem State.onValidSlot_curLive {n : Nat} {f : SlotId → State → State}
    (hcur : s.engine.curLive = false) (hf : ∀ j, (f j s).engine.curLive = false) :
    (s.onValidSlot n f).engine.curLive = false := by
  rcases s.onValidSlot_cases n f with ⟨j, -, -, h⟩ | ⟨-, h⟩ <;> rw [h]
  · exact hf j
  · exact hcur

/-- No command sets `cur_live`: only a firing does (10_state.md R24). -/
theorem exec_curLive (h : exec i s = .next t) (hcur : s.engine.curLive = false) :
    t.engine.curLive = false := by
  cases i with
  | createOnce p | createForever p | createN p =>
    cases h
    rw [State.create_eq]
    exact hcur
  | delete n =>
    cases h
    refine State.onValidSlot_curLive hcur fun j => ?_
    rw [State.deleteSlot_eq, State.setEngine_engine, hcur, Bool.false_and]
  | enable n | disable n | restart n =>
    cases h
    exact State.onValidSlot_curLive hcur fun _ => hcur
  | tick =>
    cases h
    rw [State.tickEvent_eq]
    exact hcur
  | done =>
    simp only [exec, execDone] at h
    split at h <;> cases h
    · rw [State.dispatchReturn_eq]
      exact Engine.advance_curLive _
    · exact hcur
  | tstop => cases h; exact hcur
  | tarm | tstart | trestart =>
    simp only [exec, execTarm, execTstart, execTrestart] at h
    split at h <;> cases h <;> exact hcur

theorem State.Orphaned.of_exec (h : s.Orphaned) (hne : i ≠ .done) (hexec : exec i s = .next t) :
    t.Orphaned := by
  obtain ⟨hwait, hcur⟩ := h
  rcases exec_place_cases hexec with ⟨hphase, -⟩ | ⟨hdone, -⟩
  · exact ⟨hphase.trans hwait, exec_curLive hexec hcur⟩
  · exact absurd hdone hne

theorem State.Orphaned.of_execAll {cs : List Instr} (h : s.Orphaned) (hne : .done ∉ cs)
    (hexec : execAll cs s = .next t) : t.Orphaned := by
  induction cs generalizing s with
  | nil => cases hexec; exact h
  | cons i is ih =>
    obtain ⟨hi, his⟩ := not_or.1 (mt List.mem_cons.2 hne)
    rw [execAll] at hexec
    split at hexec
    · next u hu => exact ih (h.of_exec (Ne.symm hi) hu) his hexec
    · cases hexec
    · cases hexec

/-- Deleting the slot under dispatch orphans the dispatch (41_slot_control.md R91). -/
theorem State.Orphaned.of_delete (hwait : s.engine.phase = .waitCb)
    (ha : (s.slot s.engine.scanIdx).alloc = true)
    (h : exec (.delete s.engine.scanIdx.val) s = .next t) : t.Orphaned := by
  rw [deleteFreesTheSlot s _ ha] at h
  cases h
  exact ⟨hwait, by simp [hwait]⟩

/-- The `DONE` of an orphaned dispatch applies no post-fire action (42_tick_scan.md R105). -/
theorem State.Orphaned.dispatchReturn_slots (h : s.Orphaned) :
    s.dispatchReturn.slots = s.slots := by
  rw [State.dispatchReturn_eq, State.completeFiring, h.2, if_neg Bool.false_ne_true]

end Orphaned

/-- Settles O32: the delete orphans the dispatch, and no command but `DONE` ends that. -/
theorem deletedSlotGetsNoPostFire : Obligations.DeletedSlotGetsNoPostFire := by
  intro s t u cs hwait ha hdelete hne hcs
  have horphan : u.Orphaned := (State.Orphaned.of_delete hwait ha hdelete).of_execAll hne hcs
  exact ⟨u.dispatchReturn.setStatus .ok, if_pos horphan.1, horphan.dispatchReturn_slots, rfl, rfl⟩

end Sys2Proof.Machine

end

/-! ### A tick with empty callbacks (42_tick_scan.md R110) -/

section

namespace Sys2Proof.Machine

/-! What a tick makes of one slot -/

section OneSlot

variable {x : Slot} {k : Nat}

theorem Slot.fires_iff : x.fires = true ↔ x.live = true ∧ x.remaining - 1 = 0 := by
  simp [Slot.fires]

theorem Slot.afterTick_of_not_live (hlive : x.live = false) : x.afterTick = x :=
  if_neg (by rw [← Slot.live, hlive]; exact Bool.false_ne_true)

theorem Slot.afterTick_of_remaining_ne (hlive : x.live = true) (hrem : x.remaining - 1 ≠ 0) :
    x.afterTick = x.countDown := by
  rw [Slot.afterTick, ← Slot.live, if_pos hlive, if_neg hrem, Slot.countDown]

theorem Slot.afterTick_of_fires (hfires : x.fires = true) :
    x.afterTick = x.countDown.postFire := by
  obtain ⟨hlive, hrem⟩ := Slot.fires_iff.1 hfires
  rw [Slot.afterTick, ← Slot.live, if_pos hlive, if_pos hrem, Slot.countDown, hrem]

/-- How often a slot fires in `k` ticks with empty callbacks. -/
def Slot.firings (x : Slot) : Nat → Nat
  | 0 => 0
  | k + 1 => (if x.fires then 1 else 0) + x.afterTick.firings k

/-- A slot that is not ENABLED takes no part in any tick (42_tick_scan.md R102). -/
theorem Slot.firings_of_not_live (hlive : x.live = false) : x.firings k = 0 := by
  have hfires : x.fires = false := by rw [Slot.fires, hlive, Bool.false_and]
  induction k with
  | zero => rfl
  | succ k ih => rw [Slot.firings, hfires, Slot.afterTick_of_not_live hlive, ih]; rfl

/-- An ENABLED slot fires for the first time in the tick whose number is its countdown
(42_tick_scan.md R102). -/
theorem Slot.firings_of_le_remaining (hlive : x.live = true) (hrem : x.remaining ≠ 0)
    (hk : k ≤ x.remaining.toNat) :
    x.firings k = if k = x.remaining.toNat then 1 else 0 := by
  induction k generalizing x with
  | zero => rw [if_neg fun h => hrem (BitVec.eq_of_toNat_eq h.symm)]; rfl
  | succ k ih =>
    rw [Slot.firings]
    by_cases hone : x.remaining - 1 = 0
    · have hval : x.remaining.toNat = 1 := by rw [sub_eq_zero.1 hone]; rfl
      obtain rfl : k = 0 := by omega
      rw [if_pos (Slot.fires_iff.2 ⟨hlive, hone⟩), if_pos hval.symm]
      rfl
    · have hval : (x.remaining - 1).toNat = x.remaining.toNat - 1 := by bv_omega
      rw [if_neg fun h => hone (Slot.fires_iff.1 h).2, Slot.afterTick_of_remaining_ne hlive hone,
        ih (x := x.countDown) hlive hone (by rw [Slot.countDown, hval]; omega), Nat.zero_add,
        Slot.countDown, hval]
      exact if_congr (by omega) rfl rfl

end OneSlot

/-! One index of the scan -/

section Pass

variable {s : State}

/-- The scan passes one index with an empty callback: the visit, and if the slot fires its `DONE`
(the loop body of 42_tick_scan.md R110). -/
def State.pass (s : State) : State :=
  if (s.slot s.engine.scanIdx).fires then s.visit.dispatchReturn.setStatus .ok else s.visit

theorem State.visit_of_fires (hfires : (s.slot s.engine.scanIdx).fires = true) :
    ∃ d : DispLatch, s.visit =
      { s.setSlot s.engine.scanIdx (s.slot s.engine.scanIdx).countDown with
        engine := { s.engine with phase := .waitCb, curLive := true }
        disp := d
        out := (s.slot s.engine.scanIdx).dispatchOf s.engine.scanIdx :: s.out } := by
  obtain ⟨hlive, hrem⟩ := Slot.fires_iff.1 hfires
  rcases s.visit_cases with ⟨hnot, -⟩ | ⟨-, hne, -⟩ | ⟨-, -, h⟩
  · rw [hlive] at hnot; cases hnot
  · exact absurd hrem hne
  · rw [h, State.dispatch, State.setSlot_slot_self]
    exact ⟨_, rfl⟩

theorem State.pass_of_not_fires (hfires : (s.slot s.engine.scanIdx).fires = false) :
    s.pass = (s.setSlot s.engine.scanIdx (s.slot s.engine.scanIdx).afterTick).setEngine
      s.engine.advance := by
  rw [State.pass, hfires, if_neg Bool.false_ne_true]
  rcases s.visit_cases with ⟨hlive, h⟩ | ⟨hlive, hrem, h⟩ | ⟨hlive, hrem, -⟩
  · rw [h, Slot.afterTick_of_not_live hlive, State.setSlot_slot_same]
  · rw [h, Slot.afterTick_of_remaining_ne hlive hrem]
  · rw [Slot.fires_iff.2 ⟨hlive, hrem⟩] at hfires; cases hfires

theorem State.pass_of_fires (hfires : (s.slot s.engine.scanIdx).fires = true) :
    ∃ d : DispLatch, d.valid = false ∧
      s.pass = { s.setSlot s.engine.scanIdx (s.slot s.engine.scanIdx).afterTick with
        engine := { s.engine with curLive := false }.advance
        disp := d
        status := .ok
        out := (s.slot s.engine.scanIdx).dispatchOf s.engine.scanIdx :: s.out } := by
  obtain ⟨d, hv⟩ := State.visit_of_fires hfires
  have hcomplete : s.visit.completeFiring.slots =
      (s.setSlot s.engine.scanIdx (s.slot s.engine.scanIdx).afterTick).slots := by
    rw [Slot.afterTick_of_fires hfires, hv]
    simp [State.completeFiring, State.slot_eq]
  refine ⟨{ d with valid := false }, rfl, ?_⟩
  rw [State.pass, if_pos hfires, State.dispatchReturn_eq, hcomplete, hv]
  rfl

/-- Passing an index leads to the next one, or ends the scan (42_tick_scan.md R103). -/
theorem State.pass_place (s : State) :
    if s.engine.scanIdx = 15 then s.pass.engine.phase = .idle
    else s.pass.engine.phase = .scan ∧ s.pass.engine.scanIdx = s.engine.scanIdx + 1 := by
  have hengine : ∃ b, s.pass.engine = { s.engine with curLive := b }.advance := by
    cases hfires : (s.slot s.engine.scanIdx).fires with
    | false => exact ⟨s.engine.curLive, by rw [State.pass_of_not_fires hfires]; rfl⟩
    | true =>
      obtain ⟨d, -, h⟩ := State.pass_of_fires hfires
      exact ⟨false, by rw [h]⟩
  obtain ⟨b, hb⟩ := hengine
  rcases Engine.advance_cases { s.engine with curLive := b } with ⟨hlast, h⟩ | ⟨hmore, h⟩
  · rw [if_pos hlast, hb, h]
  · rw [if_neg hmore, hb, h]
    exact ⟨rfl, rfl⟩

end Pass

/-! A stretch of the scan -/

section Passes

variable {s t u : State} {js ks : List SlotId}

/-- The dispatch events due at the indices `js`, in their order. -/
def State.dueAmong (s : State) (js : List SlotId) : List Output :=
  js.filterMap fun i => if (s.slot i).fires then some ((s.slot i).dispatchOf i) else none

theorem State.dueAmong_finRange : s.dueAmong (List.finRange 16) = s.dueNow := rfl

theorem State.dueAmong_append : s.dueAmong (js ++ ks) = s.dueAmong js ++ s.dueAmong ks :=
  List.filterMap_append

theorem State.dueAmong_congr (h : ∀ j ∈ js, t.slot j = s.slot j) :
    t.dueAmong js = s.dueAmong js :=
  List.filterMap_congr fun j hj => by rw [h j hj]

/-- What the scan leaves in `t` after passing the indices `js` from `s`, each with an empty callback
(42_tick_scan.md R110). -/
structure State.Passes (s t : State) (js : List SlotId) : Prop where
  slot : ∀ j, t.slot j = if j ∈ js then (s.slot j).afterTick else s.slot j
  out : t.out = (s.dueAmong js).reverse ++ s.out
  status : t.status = if s.dueAmong js = [] then s.status else .ok
  valid : t.disp.valid = if s.dueAmong js = [] then s.disp.valid else false
  tickPend : t.engine.tickPend = s.engine.tickPend
  overrun : t.engine.overrun = s.engine.overrun
  frame : t = { s with slots := t.slots, engine := t.engine, disp := t.disp, status := t.status,
                       out := t.out }

theorem State.pass_passes (s : State) : s.Passes s.pass [s.engine.scanIdx] := by
  have hslot (j : SlotId) :
      (s.setSlot s.engine.scanIdx (s.slot s.engine.scanIdx).afterTick).slot j =
        if j ∈ [s.engine.scanIdx] then (s.slot j).afterTick else s.slot j := by
    rw [State.setSlot_slot]
    split
    · next hj => rw [if_pos (List.mem_singleton.2 hj), hj]
    · next hj => rw [if_neg (mt List.mem_singleton.1 hj)]
  cases hfires : (s.slot s.engine.scanIdx).fires with
  | false =>
    have hdue : s.dueAmong [s.engine.scanIdx] = [] := by simp [State.dueAmong, hfires]
    rw [State.pass_of_not_fires hfires]
    exact {
      slot := hslot
      out := by rw [hdue]; rfl
      status := by rw [hdue]; rfl
      valid := by rw [hdue]; rfl
      tickPend := Engine.advance_tickPend _
      overrun := Engine.advance_overrun _
      frame := rfl }
  | true =>
    have hdue : s.dueAmong [s.engine.scanIdx] =
        [(s.slot s.engine.scanIdx).dispatchOf s.engine.scanIdx] := by simp [State.dueAmong, hfires]
    obtain ⟨d, hvalid, h⟩ := State.pass_of_fires hfires
    rw [h]
    exact {
      slot := hslot
      out := by rw [hdue]; rfl
      status := by rw [hdue]; rfl
      valid := by rw [hdue]; exact hvalid
      tickPend := Engine.advance_tickPend _
      overrun := Engine.advance_overrun _
      frame := rfl }

theorem State.Passes.trans (h : s.Passes t js) (h' : t.Passes u ks) (hdisjoint : js.Disjoint ks) :
    s.Passes u (js ++ ks) := by
  have hsame : ∀ j ∈ ks, t.slot j = s.slot j := fun j hj => by
    rw [h.slot j, if_neg fun hj' => hdisjoint hj' hj]
  have hdue := State.dueAmong_congr hsame
  exact {
    slot := fun j => by
      rw [h'.slot j]
      by_cases hj : j ∈ ks
      · rw [if_pos hj, hsame j hj, if_pos (List.mem_append_right js hj)]
      · rw [if_neg hj, h.slot j]
        exact if_congr (by simp [hj]) rfl rfl
    out := by
      rw [h'.out, h.out, hdue, State.dueAmong_append, List.reverse_append, List.append_assoc]
    status := by
      rw [h'.status, h.status, hdue, State.dueAmong_append]
      by_cases hks : s.dueAmong ks = [] <;> simp [hks]
    valid := by
      rw [h'.valid, h.valid, hdue, State.dueAmong_append]
      by_cases hks : s.dueAmong ks = [] <;> simp [hks]
    tickPend := h'.tickPend.trans h.tickPend
    overrun := h'.overrun.trans h.overrun
    frame := by rw [h'.frame, h.frame] }

theorem State.Passes.schedule (h : s.Passes t js) : t.schedule = s.schedule := by rw [h.frame]

end Passes

/-! The scan with empty callbacks, transition by transition -/

section EmptyTick

variable {s t : State} {i : Instr} {n : Nat}

theorem step_command (s : State) (hwf : i.wf = true) :
    step { s with schedule := cmdWrite (encode i) :: s.schedule } = exec i s := by
  rw [step_cmdWrite (w := encode i) rfl, decode_encode hwf]

theorem step_answered_of_waitCb (hwait : s.engine.phase = .waitCb) :
    step s.answered = .next (s.dispatchReturn.setStatus .ok) := by
  rw [State.answered, if_pos hwait, step_command s rfl, exec, execDone, if_pos hwait]

theorem step_answered_of_ne (hs : s.schedule = []) (hphase : s.engine.phase ≠ .waitCb) :
    step s.answered = .next s.engineTurn := by
  rw [State.answered, if_neg hphase, step_nil hs]

theorem emptyTick_succ (h : step s.answered = .next t) :
    emptyTick (n + 1) s = if t.engine.phase = .idle then .next t else emptyTick n t := by
  rw [emptyTick, h]

/-- An index is passed in at most two transitions. -/
theorem emptyTick_pass (hs : s.schedule = []) (hscan : s.engine.phase = .scan) (n : Nat) :
    ∃ m, n ≤ m ∧ emptyTick (n + 2) s =
      if s.pass.engine.phase = .idle then .next s.pass else emptyTick m s.pass := by
  have hvisit : step s.answered = .next s.visit := by
    rw [step_answered_of_ne hs (by rw [hscan]; exact nofun), State.engineTurn, hscan]
  cases hfires : (s.slot s.engine.scanIdx).fires with
  | false =>
    have hpass : s.pass = s.visit := by rw [State.pass, hfires, if_neg Bool.false_ne_true]
    exact ⟨n + 1, n.le_succ, by rw [hpass, emptyTick_succ hvisit]⟩
  | true =>
    have hpass : s.pass = s.visit.dispatchReturn.setStatus .ok := if_pos hfires
    have hwait : s.visit.engine.phase = .waitCb := by
      obtain ⟨d, h⟩ := State.visit_of_fires hfires
      rw [h]
    refine ⟨n, le_rfl, ?_⟩
    rw [emptyTick_succ hvisit, if_neg (by rw [hwait]; exact nofun),
      emptyTick_succ (step_answered_of_waitCb hwait), hpass]

theorem finRange_drop_eq_append (i : SlotId) :
    (List.finRange 16).drop i.val = [i] ++ (List.finRange 16).drop (i.val + 1) := by
  rw [List.drop_eq_getElem_cons (by simp), List.getElem_finRange]
  rfl

theorem singleton_disjoint_finRange_drop (i : SlotId) :
    [i].Disjoint ((List.finRange 16).drop (i.val + 1)) := by
  have hnodup : ((List.finRange 16).drop i.val).Nodup := (List.nodup_finRange 16).drop
  rw [finRange_drop_eq_append] at hnodup
  exact (List.nodup_append'.1 hnodup).2.2

/-- The rest of a scan, `k` indices after the one the engine stands at. -/
theorem emptyTick_scan {k : Nat} (hs : s.schedule = []) (hscan : s.engine.phase = .scan)
    (hk : s.engine.scanIdx.val + k = 15) (hn : 2 * k + 2 ≤ n) :
    ∃ t, emptyTick n s = .next t ∧ t.engine.phase = .idle ∧
      s.Passes t ((List.finRange 16).drop s.engine.scanIdx.val) := by
  induction k generalizing s n with
  | zero =>
    obtain ⟨n, rfl⟩ := Nat.exists_eq_add_of_le' hn
    obtain ⟨m, -, hrun⟩ := emptyTick_pass hs hscan n
    have hlast : s.engine.scanIdx = 15 := Fin.ext hk
    have hidle := s.pass_place
    rw [if_pos hlast] at hidle
    have hdrop : (List.finRange 16).drop s.engine.scanIdx.val = [s.engine.scanIdx] := by
      rw [hlast]; rfl
    exact ⟨s.pass, by rw [hrun, if_pos hidle], hidle, hdrop ▸ s.pass_passes⟩
  | succ k ih =>
    obtain ⟨n, rfl⟩ := Nat.exists_eq_add_of_le' (show 2 ≤ n by omega)
    obtain ⟨m, hm, hrun⟩ := emptyTick_pass hs hscan n
    have hmore : s.engine.scanIdx ≠ 15 := fun h => by rw [h] at hk; omega
    have hplace := s.pass_place
    rw [if_neg hmore] at hplace
    obtain ⟨hscan', hidx⟩ := hplace
    have hval : s.pass.engine.scanIdx.val = s.engine.scanIdx.val + 1 := by rw [hidx]; omega
    obtain ⟨t, hrest, hidle, hpasses⟩ :=
      ih (n := m) (s.pass_passes.schedule.trans hs) hscan' (by omega) (by omega)
    refine ⟨t, by rw [hrun, if_neg (by rw [hscan']; exact nofun), hrest], hidle, ?_⟩
    rw [finRange_drop_eq_append]
    rw [hval] at hpasses
    exact s.pass_passes.trans hpasses (singleton_disjoint_finRange_drop _)

/-- A whole scan: 33 transitions are enough for its start and for 16 indices. -/
theorem emptyTick_of_tickPend (hs : s.schedule = []) (hidle : s.engine.phase = .idle)
    (hpend : s.engine.tickPend = true) :
    ∃ t, emptyTick 33 s = .next t ∧ t.engine.phase = .idle ∧
      s.scanStart.Passes t (List.finRange 16) := by
  have hstart : step s.answered = .next s.scanStart := by
    rw [step_answered_of_ne hs (by rw [hidle]; exact nofun), State.engineTurn, hidle, hpend]
    rfl
  rw [emptyTick_succ hstart, if_neg nofun]
  exact emptyTick_scan (s := s.scanStart) (k := 15) hs rfl rfl (by decide)

end EmptyTick

/-! Any number of ticks -/

section Ticks

variable {s t : State} {i : SlotId} {k : Nat}

/-- The output is a dispatch event of slot `i`. -/
def Output.isDispatchOf (i : SlotId) : Output → Bool
  | .dispatch j _ _ _ => j == i
  | _ => false

theorem State.dispatchCount_eq_countP (s : State) (i : SlotId) :
    s.dispatchCount i = s.out.countP (Output.isDispatchOf i) := by
  refine congrArg (List.countP · s.out) (funext fun o => ?_)
  cases o <;> rfl

theorem State.dispatchCount_of_out (h : t.out = s.out) : t.dispatchCount i = s.dispatchCount i := by
  rw [State.dispatchCount_eq_countP, h, State.dispatchCount_eq_countP]

/-- A tick shows at most one dispatch event of a slot. -/
theorem State.countP_isDispatchOf_dueNow (s : State) (i : SlotId) :
    s.dueNow.countP (Output.isDispatchOf i) = if (s.slot i).fires then 1 else 0 := by
  have hone (j : SlotId) :
      ((if (s.slot j).fires then some ((s.slot j).dispatchOf j) else none).map
        (Output.isDispatchOf i)).getD false = (j == i && (s.slot i).fires) := by
    by_cases hj : j = i
    · subst hj
      cases (s.slot j).fires <;> simp [Slot.dispatchOf, Output.isDispatchOf]
    · cases (s.slot j).fires <;> simp [Slot.dispatchOf, Output.isDispatchOf, hj]
  rw [State.dueNow, List.countP_filterMap, funext hone]
  cases (s.slot i).fires with
  | false => simp
  | true =>
    simp only [Bool.and_true]
    exact List.count_eq_one_of_mem (List.nodup_finRange 16) (List.mem_finRange i)

/-- A tick of a quiescent block, seen slot by slot (42_tick_scan.md R110). -/
theorem tickAndWait_of_quiescent (hs : s.schedule = []) (hquiet : s.Quiescent) :
    ∃ t, tickAndWait s = .next t ∧ t.schedule = [] ∧ t.Quiescent ∧
      (∀ i, t.slot i = (s.slot i).afterTick) ∧
      ∀ i, t.dispatchCount i = (if (s.slot i).fires then 1 else 0) + s.dispatchCount i := by
  have hcommand : step { s with schedule := cmdWrite (encode .tick) :: s.schedule } =
      .next (s.tickEvent.setStatus .ok) := step_command s rfl
  have hengine := congrArg State.engine s.tickEvent_eq
  have hschedule : (s.tickEvent.setStatus .ok).schedule = [] := by rw [State.tickEvent_eq]; exact hs
  obtain ⟨t, hrun, hidle, hpasses⟩ := emptyTick_of_tickPend hschedule
    ((congrArg Engine.phase hengine).trans hquiet.1) (congrArg Engine.tickPend hengine)
  rw [State.tickEvent_eq] at hpasses
  refine ⟨t, by rw [tickAndWait, hcommand]; exact hrun, hpasses.schedule.trans hs,
    ⟨hidle, hpasses.tickPend⟩, fun i => ?_, fun i => ?_⟩
  · rw [hpasses.slot, if_pos (List.mem_finRange i)]
    rfl
  · rw [State.dispatchCount_eq_countP, hpasses.out, State.dueAmong_finRange, List.countP_append,
      List.countP_reverse, State.countP_isDispatchOf_dueNow, State.dispatchCount_eq_countP]
    rfl

/-- Ticks of a quiescent block act on each slot by itself (42_tick_scan.md R110). -/
theorem ticksAndWait_of_quiescent (k : Nat) (hs : s.schedule = []) (hquiet : s.Quiescent) :
    ∃ t, ticksAndWait k s = .next t ∧
      (∀ i, t.slot i = Slot.afterTick^[k] (s.slot i)) ∧
      ∀ i, t.dispatchCount i = s.dispatchCount i + (s.slot i).firings k := by
  induction k generalizing s with
  | zero => exact ⟨s, rfl, fun _ => rfl, fun _ => rfl⟩
  | succ k ih =>
    obtain ⟨t, htick, hs', hquiet', hslot, hcount⟩ := tickAndWait_of_quiescent hs hquiet
    obtain ⟨u, hticks, hslot', hcount'⟩ := ih hs' hquiet'
    refine ⟨u, by rw [ticksAndWait, htick]; exact hticks, fun i => ?_, fun i => ?_⟩
    · rw [hslot', hslot, Function.iterate_succ_apply]
    · rw [hcount', hcount, hslot, Slot.firings]
      omega

end Ticks

/-- Settles O39: the ticks act on the slot by itself, and alone it first fires in tick `r`. -/
theorem firstFiringAfterItsCountdown : Obligations.FirstFiringAfterItsCountdown := by
  intro s i k hs hquiet hstate hrem hk
  obtain ⟨t, hticks, -, hcount⟩ := ticksAndWait_of_quiescent k hs hquiet
  have hlive := Slot.state_eq_enabled_iff.1 hstate
  exact ⟨t, hticks, by rw [hcount, Slot.firings_of_le_remaining hlive hrem hk]⟩

/-- Settles O40: the ticks act on the slot by itself, and a disabled slot they leave as it is. -/
theorem disabledSlotKeepsItsPhase : Obligations.DisabledSlotKeepsItsPhase := by
  intro s t i k hs hquiet ha hdisable
  have hslot : t.slot i = { s.slot i with enabled := false } :=
    (exec_editedAt hdisable).slot_eq (State.validSlot_val ha)
  have hlive : (t.slot i).live = false := by rw [hslot, Slot.live, Bool.and_false]
  obtain ⟨hschedule, hengine, hout⟩ :
      t.schedule = s.schedule ∧ t.engine = s.engine ∧ t.out = s.out := by
    cases (disableClearsEnabledOnly s i ha).symm.trans hdisable
    exact ⟨rfl, rfl, rfl⟩
  have hquiet' : t.Quiescent := by rw [State.Quiescent, hengine]; exact hquiet
  obtain ⟨u, hticks, hslots, hcount⟩ := ticksAndWait_of_quiescent k (hschedule.trans hs) hquiet'
  have hkept : u.slot i = { s.slot i with enabled := false } := by
    rw [hslots, Function.iterate_fixed (Slot.afterTick_of_not_live hlive), hslot]
  have ha' : (u.slot i).alloc = true := by rw [hkept]; exact ha
  have henable := enableSetsEnabledOnly u i ha'
  refine ⟨u, _, hticks, ?_, henable, ?_⟩
  · rw [hcount, Slot.firings_of_not_live hlive]
    exact State.dispatchCount_of_out hout
  · rw [(exec_editedAt henable).slot_eq (State.validSlot_val ha'), hkept]
    rfl

end Sys2Proof.Machine

end

/-! ### The tick latch and the engine's turn (42_tick_scan.md R100 to R104, R107, R114) -/

section

namespace Sys2Proof.Machine

/-! The tick latch -/

section Latch

variable {s : State} {n : Nat} {rest : List Event}

/-- A pulse of a running trigger touches the latch and the overrun bit only (42_tick_scan.md
R100). -/
theorem step_tick_of_running (hs : s.schedule = .tick :: rest) (harmed : s.trig.armed = true)
    (hrun : s.trig.run = true) :
    step s = .next { s with
      schedule := rest
      engine := { s.engine with
        tickPend := true, overrun := s.engine.overrun || s.engine.tickPend } } := by
  rw [step_tick hs, if_pos (by rw [harmed, hrun]; rfl), State.tickEvent_eq]
  rfl

theorem steps_succ {t : State} (h : step s = .next t) : steps (n + 1) s = steps n t := by
  rw [steps, h]

end Latch

/-- Settles O24: the latch is set, and a tick latched before becomes an overrun. -/
theorem tickLatchesOrOverruns : Obligations.TickLatchesOrOverruns := by
  intro s after
  have hafter : after = { s.engine with
      tickPend := true, overrun := s.engine.overrun || s.engine.tickPend } := by
    unfold after
    cases s.engine.tickPend <;> simp
  refine ⟨?_, fun rest hs harmed hrun => ?_⟩
  · rw [exec, execTick, State.tickEvent_eq, hafter]
    rfl
  · rw [step_tick_of_running hs harmed hrun, hafter]

/-- Settles O35: after the first pulse a tick is latched, so each further one is an overrun. -/
theorem onlyOneTickIsRemembered : Obligations.OnlyOneTickIsRemembered := by
  intro n
  induction n with
  | zero =>
    intro s rest harmed hrun hs
    rw [steps_succ (step_tick_of_running hs harmed hrun), decide_eq_false (lt_irrefl 0),
      Bool.or_false]
    rfl
  | succ n ih =>
    intro s rest harmed hrun hs
    rw [steps_succ (step_tick_of_running hs harmed hrun), ih _ rest]
    · simp
    · exact harmed
    · exact hrun
    · rfl

/-! The engine's turn -/

section Turn

variable {s : State} {n : Nat} {rest : List Event}

/-- The engine's turn comes by its own event or with none left, and leaves `rest` scheduled (log
entry 1). -/
theorem step_of_turn (hturn : s.schedule = .engine :: rest ∨ (s.schedule = [] ∧ rest = [])) :
    step s = .next (State.engineTurn { s with schedule := rest }) := by
  rcases hturn with hs | ⟨hs, rfl⟩
  · exact step_engine hs
  · rw [step_nil hs, ← hs]

theorem State.engineTurn_of_scan (hscan : s.engine.phase = .scan) : s.engineTurn = s.visit := by
  rw [State.engineTurn, hscan]

theorem State.engineTurn_of_tickPend (hidle : s.engine.phase = .idle)
    (hpend : s.engine.tickPend = true) : s.engineTurn = s.scanStart := by
  rw [State.engineTurn, hidle]
  exact if_pos hpend

/-- Without an enabled step the engine's turn passes (log entry 13). -/
theorem State.engineTurn_of_not_enabled (h : ¬ s.EngineEnabled) : s.engineTurn = s := by
  rcases s.engineTurn_cases with ⟨hidle, hpend, -⟩ | ⟨hscan, -⟩ | ⟨-, hs⟩
  · exact absurd (.inl ⟨hidle, hpend⟩) h
  · exact absurd (.inr hscan) h
  · exact hs

theorem State.not_engineEnabled_of_quiescent (h : s.Quiescent) : ¬ s.EngineEnabled := by
  obtain ⟨hidle, hpend⟩ := h
  simp [hidle, hpend]

theorem State.not_engineEnabled_of_waitCb (h : s.engine.phase = .waitCb) : ¬ s.EngineEnabled := by
  simp [h]

/-- With no event to come and no enabled step the block stays as it is, however long. -/
theorem steps_of_not_enabled (hs : s.schedule = []) (h : ¬ s.EngineEnabled) :
    steps n s = .next s := by
  have hstep : step s = .next s := by rw [step_nil hs, State.engineTurn_of_not_enabled h]
  induction n with
  | zero => rfl
  | succ n ih => rw [steps_succ hstep, ih]

end Turn

/-- Settles O26: in IDLE the engine's one enabled step is the scan start. -/
theorem scanStart : Obligations.ScanStart := by
  intro s rest hidle hturn
  rw [step_of_turn hturn]
  refine ⟨fun hpend => ?_, fun hpend => ?_⟩
  · rw [State.engineTurn_of_tickPend (s := { s with schedule := rest }) hidle hpend]
    rfl
  · rw [State.engineTurn_of_not_enabled]
    exact State.not_engineEnabled_of_quiescent ⟨hidle, hpend⟩

/-- Settles O33: a quiescent block has no enabled step. -/
theorem quiescentBlockStaysPut : Obligations.QuiescentBlockStaysPut := fun _ _ hs hidle hpend =>
  steps_of_not_enabled hs (State.not_engineEnabled_of_quiescent ⟨hidle, hpend⟩)

/-- Settles O34: in WAIT_CB the engine has no enabled step. -/
theorem unansweredDispatchHangs : Obligations.UnansweredDispatchHangs := fun _ _ hs hwait =>
  steps_of_not_enabled hs (State.not_engineEnabled_of_waitCb hwait)

/-! A visit -/

section Visit

variable {s : State}

theorem State.visit_of_not_live (hlive : (s.slot s.engine.scanIdx).live = false) :
    s.visit = s.setEngine s.engine.advance :=
  if_neg (by rw [hlive]; exact Bool.false_ne_true)

theorem State.visit_of_remaining_ne (hlive : (s.slot s.engine.scanIdx).live = true)
    (hrem : (s.slot s.engine.scanIdx).remaining - 1 ≠ 0) :
    s.visit = (s.setSlot s.engine.scanIdx (s.slot s.engine.scanIdx).countDown).setEngine
      s.engine.advance := by
  rcases s.visit_cases with ⟨hnot, -⟩ | ⟨-, -, h⟩ | ⟨-, hzero, -⟩
  · rw [hlive] at hnot; cases hnot
  · exact h
  · exact absurd hzero hrem

theorem State.visit_of_remaining_eq (hlive : (s.slot s.engine.scanIdx).live = true)
    (hrem : (s.slot s.engine.scanIdx).remaining - 1 = 0) :
    s.visit = (s.setSlot s.engine.scanIdx (s.slot s.engine.scanIdx).countDown).dispatch
      s.engine.scanIdx := by
  rcases s.visit_cases with ⟨hnot, -⟩ | ⟨-, hne, -⟩ | ⟨-, -, h⟩
  · rw [hlive] at hnot; cases hnot
  · exact absurd hrem hne
  · exact h

/-- An advance out of SCAN stays in SCAN but at the last index (42_tick_scan.md R103). -/
theorem Engine.advance_of_scan {e : Engine} (hscan : e.phase = .scan) :
    e.advance = if e.scanIdx = 15 then { e with phase := .idle }
      else { e with scanIdx := e.scanIdx + 1 } := by
  rw [Engine.advance, ← hscan]

/-- Where a visit leaves the engine: at the slot that fired, or one place further (42_tick_scan.md
R102, R103). -/
theorem State.visit_engine_cases (s : State) :
    (s.visit.engine.phase = .waitCb ∧ s.visit.engine.scanIdx = s.engine.scanIdx) ∨
    s.visit.engine = s.engine.advance := by
  rcases s.visit_cases with ⟨-, h⟩ | ⟨-, -, h⟩ | ⟨-, -, h⟩ <;> rw [h]
  · exact .inr rfl
  · exact .inr rfl
  · exact .inl ⟨rfl, rfl⟩

theorem step_visit (hs : s.schedule = []) (hscan : s.engine.phase = .scan) :
    step s = .next s.visit := by
  rw [step_nil hs, State.engineTurn_of_scan hscan]

/-- The visits from an index of the scan on, `k` indices before the last (42_tick_scan.md R107). -/
theorem steps_scan_ends_or_dispatches {k : Nat} (hs : s.schedule = [])
    (hscan : s.engine.phase = .scan) (hk : s.engine.scanIdx.val + k = 15) :
    ∃ n t, n ≤ k + 1 ∧ steps n s = .next t ∧
      ((t.engine.phase = .idle ∧ t.engine.scanIdx = 15) ∨
        (t.engine.phase = .waitCb ∧ s.engine.scanIdx ≤ t.engine.scanIdx)) := by
  induction k generalizing s with
  | zero =>
    have hstep := step_visit hs hscan
    refine ⟨1, s.visit, le_rfl, steps_succ hstep, ?_⟩
    rcases s.visit_engine_cases with ⟨hwait, hidx⟩ | hadvance
    · exact .inr ⟨hwait, hidx.ge⟩
    · have hplace := s.engine.advance_place
      rw [if_pos (Fin.ext hk), ← hadvance] at hplace
      exact .inl hplace
  | succ k ih =>
    have hstep := step_visit hs hscan
    rcases s.visit_engine_cases with ⟨hwait, hidx⟩ | hadvance
    · exact ⟨1, s.visit, by omega, steps_succ hstep, .inr ⟨hwait, hidx.ge⟩⟩
    · have hmore : s.engine.scanIdx ≠ 15 := fun h => by rw [h] at hk; omega
      have hplace := s.engine.advance_place
      rw [if_neg hmore, ← hadvance] at hplace
      obtain ⟨hscan', hidx⟩ := hplace
      have hval : s.visit.engine.scanIdx.val = s.engine.scanIdx.val + 1 := by rw [hidx]; omega
      have hs' : s.visit.schedule = [] := by
        rw [← State.engineTurn_of_scan hscan, State.engineTurn_eq]; exact hs
      obtain ⟨n, t, hn, hrun, hend⟩ := ih hs' hscan' (by omega)
      have hle : s.engine.scanIdx ≤ s.visit.engine.scanIdx := Fin.le_def.2 (by omega)
      exact ⟨n + 1, t, by omega, by rw [steps_succ hstep, hrun],
        hend.imp_right fun hwait => ⟨hwait.1, hle.trans hwait.2⟩⟩

end Visit

/-- Settles O27: the three things a visit can come to. -/
theorem visitCountsDownAndFires : Obligations.VisitCountsDownAndFires := by
  intro s rest hscan hturn i x advanced counted
  have hadvance : s.engine.advance = advanced := Engine.advance_of_scan hscan
  have hstep : step s = .next (State.visit { s with schedule := rest }) := by
    rw [step_of_turn hturn, State.engineTurn_of_scan (s := { s with schedule := rest }) hscan]
  rw [hstep, ← hadvance]
  refine ⟨fun hnot => ?_, fun ha he hrem => ?_, fun ha he hrem => ?_⟩
  · have hlive : x.live = false := Bool.eq_false_iff.2 (mt Slot.live_iff.1 hnot)
    rw [State.visit_of_not_live (s := { s with schedule := rest }) hlive]
    rfl
  · have hlive : x.live = true := Slot.live_iff.2 ⟨ha, he⟩
    rw [State.visit_of_remaining_ne (s := { s with schedule := rest }) hlive (sub_ne_zero.2 hrem)]
    rfl
  · have hlive : x.live = true := Slot.live_iff.2 ⟨ha, he⟩
    rw [State.visit_of_remaining_eq (s := { s with schedule := rest }) hlive
      (sub_eq_zero.2 hrem), State.dispatch, State.setSlot_slot_self]
    rfl

/-- Settles O36: by the number of indices after the one the engine stands at. -/
theorem scanEndsOrDispatches : Obligations.ScanEndsOrDispatches := by
  intro s hs hscan
  obtain ⟨n, t, hn, hrun, hend⟩ :=
    steps_scan_ends_or_dispatches (k := 15 - s.engine.scanIdx.val) hs hscan (by omega)
  exact ⟨n, t, by omega, hrun, hend⟩

end Sys2Proof.Machine

end

/-! ### An outstanding dispatch, and its `DONE` (42_tick_scan.md R104 to R106, 60_exceptions.md
R136) -/

section

namespace Sys2Proof.Machine

/-! The post-fire action by kind -/

section PostFire

variable {x : Slot}

theorem Slot.postFire_of_forever (hk : x.kind = .forever) : x.postFire = x.reload := by
  rw [Slot.postFire, hk]

theorem Slot.postFire_of_once (hk : x.kind = .once) : x.postFire = x.free := by
  rw [Slot.postFire, hk]

theorem Slot.postFire_of_ntimes_pos (hk : x.kind = .ntimes) (hc : 0 < (x.count - 1).toInt) :
    x.postFire = { x with count := x.count - 1, remaining := x.period } := by
  rw [Slot.postFire, hk]
  exact if_pos hc

theorem Slot.postFire_of_ntimes_le (hk : x.kind = .ntimes) (hc : (x.count - 1).toInt ≤ 0) :
    x.postFire = { x with count := x.count - 1, alloc := false, enabled := false } := by
  rw [Slot.postFire, hk]
  exact if_neg hc.not_gt

end PostFire

/-! `DONE` -/

theorem Engine.advance_eq (e : Engine) : e.advance = { e with
    phase := if e.scanIdx = 15 then .idle else .scan
    scanIdx := if e.scanIdx = 15 then e.scanIdx else e.scanIdx + 1 } := by
  unfold Engine.advance
  split <;> rfl

/-- An answered `DONE` (42_tick_scan.md R105): its post-fire action is in the slot table, the rest
is the same for every slot. -/
theorem exec_done_of_waitCb {s : State} (hwait : s.engine.phase = .waitCb) :
    exec .done s = .next { s with
      slots := s.completeFiring.slots
      disp := { s.disp with valid := false }
      engine := { s.engine with curLive := false }.advance
      status := .ok } := by
  rw [exec, execDone, if_pos hwait, State.dispatchReturn_eq]
  rfl

/-- Settles O28: the post-fire action by kind, or none for a slot deleted since. -/
theorem doneCompletesTheDispatch : Obligations.DoneCompletesTheDispatch := by
  intro s i x c completed writing
  refine ⟨exec_done_of_phase_ne, fun hwait => ?_⟩
  have hdone : exec .done s = .next (completed s.completeFiring.slots) := by
    rw [exec_done_of_waitCb hwait, Engine.advance_eq]
  rw [hdone]
  refine ⟨fun hcur => ?_, fun hcur => ?_⟩
  · rw [State.completeFiring, hcur, if_neg Bool.false_ne_true]
  · have hwrite : s.completeFiring.slots = writing x.postFire := by
      rw [State.completeFiring, if_pos hcur]
      rfl
    rw [hwrite]
    refine ⟨fun hk => ?_, fun hk hc => ?_, fun hk hc => ?_, fun hk => ?_⟩
    · rw [Slot.postFire_of_forever hk]
      rfl
    · rw [Slot.postFire_of_ntimes_pos hk hc]
    · rw [Slot.postFire_of_ntimes_le hk hc]
    · rw [Slot.postFire_of_once hk]
      rfl

/-! Waiting for `DONE` -/

section Held

variable {s t : State} {i : Instr}

/-- The latches and the engine's place in the scan are those of `s`. -/
def State.Holds (s t : State) : Prop :=
  t.disp = s.disp ∧ t.engine.phase = s.engine.phase ∧ t.engine.scanIdx = s.engine.scanIdx

/-- No command but an answered `DONE` touches the latches or moves the engine (42_tick_scan.md
R104, R105). -/
theorem exec_holds_or_done (h : exec i s = .next t) :
    s.Holds t ∨ (i = .done ∧ t.engine.phase ≠ .waitCb) := by
  rcases exec_frame_cases h with ⟨k, p, -, ht⟩ | ⟨hi, -, ht⟩ | ⟨-, ht⟩ | ht
  · exact .inl (by rw [ht]; exact ⟨rfl, rfl, rfl⟩)
  · exact .inr ⟨hi, by rw [ht]; exact Engine.advance_phase_ne _⟩
  · exact .inl (by rw [ht]; exact ⟨rfl, rfl, rfl⟩)
  · exact .inl (by rw [ht]; exact ⟨rfl, rfl, rfl⟩)

/-- In WAIT_CB only `DONE` and a reset do more than wait (42_tick_scan.md R104, R105). -/
theorem step_holds_of_waitCb (hwait : s.engine.phase = .waitCb) (h : step s = .next t) :
    s.Holds t ∨ ((s.Issues .done ∨ s.Resets) ∧ t.engine.phase ≠ .waitCb) := by
  have hoff := State.not_engineEnabled_of_waitCb hwait
  rcases step_next_cases h with ⟨-, rfl⟩ | ⟨rest, ⟨-, rfl⟩ | ⟨-, -, -, rfl⟩ | ⟨r, -, rfl⟩ |
    ⟨r, v, -, -, rfl⟩ | ⟨w, e, -, -, rfl⟩ | ⟨w, i, hs, hdecode, hexec⟩ | ⟨hs, rfl⟩⟩
  · rw [State.engineTurn_of_not_enabled hoff]
    exact .inl ⟨rfl, rfl, rfl⟩
  · rw [State.engineTurn_of_not_enabled (s := { s with schedule := rest }) hoff]
    exact .inl ⟨rfl, rfl, rfl⟩
  · rw [State.tickEvent_eq]
    exact .inl ⟨rfl, rfl, rfl⟩
  · exact .inl ⟨rfl, rfl, rfl⟩
  · rw [State.regWrite_eq]
    exact .inl ⟨rfl, rfl, rfl⟩
  · exact .inl ⟨rfl, rfl, rfl⟩
  · refine (exec_holds_or_done hexec).imp_right fun hdone => ?_
    obtain ⟨rfl, hphase⟩ := hdone
    exact ⟨.inl (issues_of_decode hs hdecode), hphase⟩
  · exact .inr ⟨.inr (resets_of_rst hs), nofun⟩

end Held

/-- While `disp_valid` is 1 the engine waits (10_state.md R29 item 6). -/
theorem State.Inv.waitCb_of_valid {s : State} (h : s.Inv) (hvalid : s.disp.valid = true) :
    s.engine.phase = .waitCb := by
  obtain ⟨-, ⟨hwaiting, -⟩, -⟩ := h
  exact hwaiting.1 hvalid

/-- Settles O30: what a step in WAIT_CB holds; past it `disp_valid` is 0 by R29 item 6. -/
theorem dispatchIsHeldUntilDone : Obligations.DispatchIsHeldUntilDone := by
  intro s t hinv hvalid h
  have hwait := hinv.waitCb_of_valid hvalid
  rcases step_holds_of_waitCb hwait h with ⟨hdisp, hphase, hidx⟩ | ⟨hcause, hphase⟩
  · exact .inl ⟨hdisp, by rw [State.irqO, hdisp, hvalid], hphase.trans hwait, hidx⟩
  · exact .inr ⟨hcause, (stepKeepsTheInvariants s t hinv h).valid_eq_false hphase, hphase⟩

end Sys2Proof.Machine

end

/-! ### Scans with empty callbacks, as a loop and counted (42_tick_scan.md R110, R111) -/

section

namespace Sys2Proof.Machine

/-- Settles O37: the scan passes each index once, in ascending order. -/
theorem scanIsTheSourceLoop : Obligations.ScanIsTheSourceLoop := by
  intro s hs hidle hpend
  obtain ⟨t, hrun, hend, hpasses⟩ := emptyTick_of_tickPend hs hidle hpend
  refine ⟨t, hrun, fun i => ?_, hpasses.out, hend, hpasses.tickPend, hpasses.overrun,
    hpasses.status, hpasses.valid, hpasses.frame⟩
  rw [hpasses.slot, if_pos (List.mem_finRange i)]
  rfl

/-! How often a slot fires -/

/-- How often a slot fires when its period passes `n` times: always, at most `count` times, or at
most once, by its kind (42_tick_scan.md R106, R111). -/
def Slot.firingsIn (x : Slot) (n : Nat) : Nat :=
  match x.kind with
  | .forever => n
  | .ntimes => min x.count.toNat n
  | .once => min 1 n

/-- An ENABLED slot at the start of a period, with invocations still to come (42_tick_scan.md
R111). -/
structure Slot.StartsPeriod (x : Slot) : Prop where
  live : x.live = true
  period : x.period ≠ 0
  remaining : x.remaining = x.period
  count : x.kind = .ntimes → 0 < x.count.toInt

section Firings

variable {x : Slot} {k n : Nat}

theorem Slot.firingsIn_zero : x.firingsIn 0 = 0 := by
  unfold Slot.firingsIn
  cases x.kind with
  | forever => rfl
  | ntimes => exact Nat.min_zero _
  | once => rfl

/-- When its countdown has run down an ENABLED slot has fired once, and goes on as the post-fire
action left it (42_tick_scan.md R102, R106). -/
theorem Slot.firings_of_remaining_le (hlive : x.live = true) (hrem : x.remaining ≠ 0)
    (hk : x.remaining.toNat ≤ k) :
    x.firings k = 1 + { x with remaining := 0 }.postFire.firings (k - x.remaining.toNat) := by
  induction k generalizing x with
  | zero => exact absurd (BitVec.eq_of_toNat_eq (Nat.le_zero.1 hk)) hrem
  | succ k ih =>
    rw [Slot.firings]
    by_cases hone : x.remaining - 1 = 0
    · have hfires := Slot.fires_iff.2 ⟨hlive, hone⟩
      have hval : x.remaining.toNat = 1 := by rw [sub_eq_zero.1 hone]; rfl
      rw [if_pos hfires, Slot.afterTick_of_fires hfires, Slot.countDown, hone, hval]
      rfl
    · have hval : (x.remaining - 1).toNat = x.remaining.toNat - 1 := by bv_omega
      rw [if_neg fun h => hone (Slot.fires_iff.1 h).2, Slot.afterTick_of_remaining_ne hlive hone,
        ih (x := x.countDown) hlive hone (by rw [Slot.countDown, hval]; omega), Nat.zero_add,
        Slot.countDown, hval]
      congr 2
      have : x.remaining.toNat ≠ 0 := fun h => hrem (BitVec.eq_of_toNat_eq h)
      omega

/-- A count is positive as a signed number iff it is so as an unsigned one below 2^31. -/
theorem word_toInt_pos_iff {c : Word} : 0 < c.toInt ↔ 0 < c.toNat ∧ c.toNat < 2 ^ 31 := by
  rw [BitVec.toInt_eq_toNat_cond]
  split <;> omega

/-- What is left of a slot's firings after its first: the post-fire action begins a new period with
one firing fewer, or retires the slot (42_tick_scan.md R106). -/
theorem Slot.StartsPeriod.postFire_cases (hx : x.StartsPeriod) :
    ({ x with remaining := 0 }.postFire.StartsPeriod ∧
      { x with remaining := 0 }.postFire.period = x.period ∧
      ∀ n, x.firingsIn (n + 1) = 1 + { x with remaining := 0 }.postFire.firingsIn n) ∨
    ({ x with remaining := 0 }.postFire.live = false ∧ ∀ n, x.firingsIn (n + 1) = 1) := by
  obtain ⟨hlive, hperiod, hrem, hcount⟩ := hx
  rcases Slot.postFire_cases { x with remaining := 0 } with ⟨hk, h⟩ | ⟨hk, hmore, h⟩ |
    ⟨hk, hlast, h⟩ | ⟨hk, h⟩ <;> rw [h] <;> simp only at hk
  · refine .inl ⟨⟨hlive, hperiod, rfl, hcount⟩, rfl, fun n => ?_⟩
    simp only [Slot.firingsIn, Slot.reload, hk]
    omega
  · refine .inl ⟨⟨hlive, hperiod, rfl, fun _ => hmore⟩, rfl, fun n => ?_⟩
    have hpos := word_toInt_pos_iff.1 (hcount hk)
    have hval : (x.count - 1).toNat = x.count.toNat - 1 := by bv_omega
    simp only [Slot.firingsIn, hk, hval]
    omega
  · refine .inr ⟨rfl, fun n => ?_⟩
    have hpos := word_toInt_pos_iff.1 (hcount hk)
    have hnot := mt word_toInt_pos_iff.2 hlast
    have hval : (x.count - 1).toNat = x.count.toNat - 1 := by bv_omega
    simp only [Slot.firingsIn, hk]
    simp only at hnot
    omega
  · refine .inr ⟨rfl, fun n => ?_⟩
    simp only [Slot.firingsIn, hk]
    omega

/-- A slot fires once for each of its periods that passes, as long as its kind lets it. -/
theorem Slot.StartsPeriod.firings (hx : x.StartsPeriod) (k : Nat) :
    x.firings k = x.firingsIn (k / x.period.toNat) := by
  induction k using Nat.strong_induction_on generalizing x with
  | _ k ih =>
    have hpos : 0 < x.period.toNat := one_le_toNat_iff.2 hx.period
    have hne : x.remaining ≠ 0 := hx.remaining ▸ hx.period
    rcases lt_or_ge k x.period.toNat with hlt | hge
    · rw [Slot.firings_of_le_remaining hx.live hne (hx.remaining ▸ hlt.le),
        if_neg (hx.remaining ▸ hlt.ne), Nat.div_eq_of_lt hlt, Slot.firingsIn_zero]
    · rw [Slot.firings_of_remaining_le hx.live hne (hx.remaining ▸ hge), hx.remaining,
        Nat.div_eq_sub_div hpos hge]
      rcases hx.postFire_cases with ⟨hnext, hperiod, hin⟩ | ⟨hlive, hin⟩
      · rw [ih _ (by omega) hnext, hperiod, hin]
      · rw [Slot.firings_of_not_live hlive, hin]

end Firings

/-- Settles O38: the ticks act on the slot by itself, and alone it fires once per period. -/
theorem dispatchFidelity : Obligations.DispatchFidelity := by
  intro s i k hs hquiet hstate hperiod hrem hcount
  obtain ⟨t, hticks, -, hdispatched⟩ := ticksAndWait_of_quiescent k hs hquiet
  have hstart : (s.slot i).StartsPeriod :=
    ⟨Slot.state_eq_enabled_iff.1 hstate, hperiod, hrem, hcount⟩
  exact ⟨t, hticks, by rw [hdispatched, hstart.firings]; rfl⟩

end Sys2Proof.Machine

end

/-! ### Fair runs (43_trigger_control.md R125, 60_exceptions.md R147, 70_reset_and_hazards.md
R171) -/

section

namespace Sys2Proof.Machine

/-! How far a scan has still to go -/

/-- How many moves of the engine's place a scan has left at most: two for each index still ahead, a
firing and an advance. -/
def Engine.toGo (e : Engine) : Nat :=
  match e.phase with
  | .idle => 0
  | .scan => 2 * (16 - e.scanIdx.val)
  | .waitCb => 2 * (16 - e.scanIdx.val) - 1

section ToGo

variable {s t : State} {e f : Engine}

theorem Engine.toGo_congr (hphase : f.phase = e.phase) (hidx : f.scanIdx = e.scanIdx) :
    f.toGo = e.toGo := by
  rw [Engine.toGo, Engine.toGo, hphase, hidx]

theorem Engine.toGo_advance_lt (hbusy : e.phase ≠ .idle) : e.advance.toGo < e.toGo := by
  have hleft : 2 * (16 - e.scanIdx.val) - 1 ≤ e.toGo := by
    unfold Engine.toGo
    cases hp : e.phase with
    | idle => exact absurd hp hbusy
    | scan => exact Nat.sub_le _ _
    | waitCb => exact le_rfl
  refine lt_of_lt_of_le ?_ hleft
  rcases e.advance_cases with ⟨-, h⟩ | ⟨hmore, h⟩ <;> rw [h, Engine.toGo] <;> dsimp only
  · omega
  · have hlt : e.scanIdx.val ≠ 15 := fun hidx => hmore (Fin.ext hidx)
    omega

theorem State.visit_toGo_lt (hscan : s.engine.phase = .scan) :
    s.visit.engine.toGo < s.engine.toGo := by
  rcases s.visit_engine_cases with ⟨hwait, hidx⟩ | hadvance
  · rw [Engine.toGo, Engine.toGo, hwait, hscan, hidx]
    dsimp only
    omega
  · rw [hadvance]
    exact Engine.toGo_advance_lt (by rw [hscan]; exact nofun)

/-- Outside IDLE a step, reset aside, keeps the engine's place or brings the scan nearer to its end
(42_tick_scan.md R107). -/
theorem step_toGo_lt_or_stays (h : step s = .next t) (hbusy : s.engine.phase ≠ .idle)
    (hreset : ¬ s.Resets) :
    (t.engine.phase = s.engine.phase ∧ t.engine.scanIdx = s.engine.scanIdx) ∨
      t.engine.toGo < s.engine.toGo := by
  rcases step_place_cases h with hstays | ⟨-, rest, rfl⟩ | ⟨-, -, ht⟩ | hrst
  · exact .inl hstays
  · rcases State.engineTurn_cases { s with schedule := rest } with
      ⟨hidle, -, -⟩ | ⟨hscan, ht⟩ | ⟨-, ht⟩
    · exact absurd hidle hbusy
    · exact .inr (by rw [ht]; exact State.visit_toGo_lt hscan)
    · exact .inl (by rw [ht]; exact ⟨rfl, rfl⟩)
  · rw [ht]
    exact .inr (Engine.toGo_advance_lt (e := { s.engine with curLive := false }) hbusy)
  · exact absurd hrst hreset

end ToGo

/-! The tick latch in a step -/

section Latched

variable {s t : State} {i : Instr}

/-- No command withdraws a latched tick (10_state.md R23). -/
theorem exec_tickPend (h : exec i s = .next t) (hpend : s.engine.tickPend = true) :
    t.engine.tickPend = true := by
  cases i with
  | createOnce p | createForever p | createN p =>
    cases h
    rw [State.create_eq]
    exact hpend
  | delete n =>
    cases h
    rcases s.onValidSlot_cases n State.deleteSlot with ⟨j, -, -, h⟩ | ⟨-, h⟩ <;> rw [h]
    · rw [State.deleteSlot_eq]
      exact hpend
    · exact hpend
  | enable n | disable n | restart n =>
    cases h
    rcases s.onValidSlot_cases n _ with ⟨j, -, -, h⟩ | ⟨-, h⟩ <;> rw [h] <;> exact hpend
  | tick =>
    cases h
    rw [State.tickEvent_eq]
    rfl
  | done =>
    by_cases hwait : s.engine.phase = .waitCb
    · cases (exec_done_of_waitCb hwait).symm.trans h
      exact (Engine.advance_tickPend _).trans hpend
    · cases (exec_done_of_phase_ne hwait).symm.trans h
      exact hpend
  | tstop => cases h; exact hpend
  | tarm | tstart | trestart =>
    simp only [exec, execTarm, execTstart, execTrestart] at h
    split at h <;> cases h <;> exact hpend

/-- A latched tick waits for its scan start (42_tick_scan.md R101). -/
theorem State.engineTurn_tickPend (hpend : s.engine.tickPend = true) :
    s.engineTurn.engine.tickPend = true ∨
      (s.engine.phase = .idle ∧ s.engineTurn = s.scanStart) := by
  rcases s.engineTurn_cases with ⟨hidle, -, h⟩ | ⟨-, h⟩ | ⟨-, h⟩
  · exact .inr ⟨hidle, h⟩
  · refine .inl ?_
    rw [h]
    rcases s.visit_cases with ⟨-, hv⟩ | ⟨-, -, hv⟩ | ⟨-, -, hv⟩ <;> rw [hv]
    · exact (Engine.advance_tickPend _).trans hpend
    · exact (Engine.advance_tickPend _).trans hpend
    · exact hpend
  · exact .inl (by rw [h]; exact hpend)

/-- The step from `s` to `t` is a scan start (42_tick_scan.md R101). -/
def State.StartsScan (s t : State) : Prop :=
  s.engine.phase = .idle ∧ s.engine.tickPend = true ∧ t.engine.phase = .scan ∧ t.engine.scanIdx = 0

/-- Reset aside, a latched tick stays latched up to its scan start. -/
theorem step_tickPend (h : step s = .next t) (hpend : s.engine.tickPend = true)
    (hreset : ¬ s.Resets) : t.engine.tickPend = true ∨ s.StartsScan t := by
  have hturn {u : State} (hu : u.engine = s.engine) :
      u.engineTurn.engine.tickPend = true ∨ s.StartsScan u.engineTurn := by
    refine (State.engineTurn_tickPend (hu ▸ hpend)).imp_right fun hstart => ?_
    rw [hstart.2]
    exact ⟨hu ▸ hstart.1, hpend, rfl, rfl⟩
  rcases step_next_cases h with ⟨-, rfl⟩ | ⟨rest, ⟨-, rfl⟩ | ⟨-, -, -, rfl⟩ | ⟨r, -, rfl⟩ |
    ⟨r, v, -, -, rfl⟩ | ⟨w, e, -, -, rfl⟩ | ⟨w, i, -, -, hexec⟩ | ⟨hs, -⟩⟩
  · exact hturn rfl
  · exact hturn rfl
  · exact .inl (by rw [State.tickEvent_eq]; rfl)
  · exact .inl hpend
  · exact .inl (by rw [State.regWrite_eq]; exact hpend)
  · exact .inl hpend
  · exact .inl (exec_tickPend hexec hpend)
  · exact absurd (resets_of_rst hs) hreset

/-- Reset aside, only a scan start leads out of IDLE (42_tick_scan.md R101). -/
theorem step_idle (h : step s = .next t) (hidle : s.engine.phase = .idle) (hreset : ¬ s.Resets) :
    t.engine.phase = .idle ∨ s.StartsScan t := by
  rcases sequencingMovesInScanOrder s t h with ⟨hphase, -⟩ | ⟨-, hstart⟩ | ⟨-, hscan, -⟩ |
    ⟨⟨-, hscan⟩ | ⟨-, hwait⟩, -⟩ | hrst
  · exact .inl (hphase.trans hidle)
  · exact .inr hstart
  · rw [hidle] at hscan; cases hscan
  · rw [hidle] at hscan; cases hscan
  · rw [hidle] at hwait; cases hwait
  · exact absurd hrst hreset

end Latched

/-! Runs whose trigger stays armed and running -/

section Run

variable {r : Nat → State} {env : Nat → List Event}
  (hrun : IsRun r env) (harmed : ∀ n, (r n).trig.armed = true ∧ (r n).trig.run = true)

include hrun harmed

/-- A reset would disarm the trigger (10_state.md R30). -/
theorem not_resets_of_armed (n : Nat) : ¬ ((r n).arrive (env n)).Resets := by
  intro hreset
  obtain ⟨rest, hs⟩ := List.head?_eq_some_iff.1 hreset
  have hnext := Host.Outcome.next.inj ((hrun n).symm.trans (step_rst hs))
  have hnever := (harmed (n + 1)).1
  rw [hnext] at hnever
  cases hnever

/-- A scan under way comes nearer to its end: the engine is given its turn and every callback
returns (70_reset_and_hazards.md R171, 60_exceptions.md R147). -/
theorem exists_toGo_lt (hengine : EngineFair r env) (hreturn : CallbacksReturn r) {n : Nat}
    (hbusy : (r n).engine.phase ≠ .idle) :
    ∃ m, n ≤ m ∧ (r m).engine.toGo < (r n).engine.toGo := by
  by_contra hnever
  have hplace : ∀ m, n ≤ m → (r m).engine.phase = (r n).engine.phase ∧
      (r m).engine.scanIdx = (r n).engine.scanIdx := fun m hm => by
    induction m, hm using Nat.le_induction with
    | base => exact ⟨rfl, rfl⟩
    | succ m hm ih =>
      obtain ⟨hphase, hidx⟩ := ih
      have hreset := not_resets_of_armed hrun harmed m
      rcases step_toGo_lt_or_stays (hrun m) (hphase ▸ hbusy) hreset with ⟨hphase', hidx'⟩ | hlt
      · exact ⟨hphase'.trans hphase, hidx'.trans hidx⟩
      · exact absurd ⟨m + 1, by omega, hlt.trans_eq (Engine.toGo_congr hphase hidx)⟩ hnever
  cases hp : (r n).engine.phase with
  | idle => exact hbusy hp
  | waitCb =>
    obtain ⟨m, hm, hphase⟩ := hreturn n hp
    exact hphase ((hplace m hm).1.trans hp)
  | scan =>
    have hscan (m : Nat) (hm : n ≤ m) : (r m).engine.phase = .scan := (hplace m hm).1.trans hp
    obtain ⟨m, hm, hmoves⟩ := hengine n fun m hm => .inr (hscan m hm)
    obtain ⟨rest, hstep⟩ := step_of_engineMoves hmoves
    have hnext := Host.Outcome.next.inj ((hrun m).symm.trans hstep)
    have hvisit := State.engineTurn_of_scan (s := { (r m).arrive (env m) with schedule := rest })
      (hscan m hm)
    refine hnever ⟨m + 1, by omega, ?_⟩
    rw [hnext, hvisit, ← Engine.toGo_congr (hplace m hm).1 (hplace m hm).2]
    exact State.visit_toGo_lt (hscan m hm)

/-- In IDLE a tick comes and waits until its scan starts (43_trigger_control.md R125,
70_reset_and_hazards.md R171). -/
theorem exists_scanStartsAt_of_idle (hengine : EngineFair r env) (htrigger : TriggerFair r env)
    {n : Nat} (hidle : (r n).engine.phase = .idle) : ∃ m, n ≤ m ∧ ScanStartsAt r m := by
  by_contra hnever
  have hreset := not_resets_of_armed hrun harmed
  have hidles : ∀ m, n ≤ m → (r m).engine.phase = .idle := fun m hm => by
    induction m, hm using Nat.le_induction with
    | base => exact hidle
    | succ m hm ih =>
      exact (step_idle (hrun m) ih (hreset m)).resolve_right fun hstart => hnever ⟨m, hm, hstart⟩
  obtain ⟨m, hm, htick⟩ := htrigger n fun m _ => harmed m
  obtain ⟨rest, hs⟩ := List.head?_eq_some_iff.1 htick
  have hpulse := Host.Outcome.next.inj
    ((hrun m).symm.trans (step_tick_of_running hs (harmed m).1 (harmed m).2))
  have hpends : ∀ k, m + 1 ≤ k → (r k).engine.tickPend = true := fun k hk => by
    induction k, hk using Nat.le_induction with
    | base => rw [hpulse]
    | succ k hk ih =>
      exact (step_tickPend (hrun k) ih (hreset k)).resolve_right
        fun hstart => hnever ⟨k, by omega, hstart⟩
  obtain ⟨k, hk, hmoves⟩ := hengine (m + 1) fun k hk => .inl ⟨hidles k (by omega), hpends k hk⟩
  obtain ⟨rest, hstep⟩ := step_of_engineMoves hmoves
  have hnext := Host.Outcome.next.inj ((hrun k).symm.trans hstep)
  have hstart := State.engineTurn_of_tickPend
    (s := { (r k).arrive (env k) with schedule := rest }) (hidles k (by omega)) (hpends k hk)
  have hscan := hidles (k + 1) (by omega)
  rw [hnext, hstart] at hscan
  cases hscan

end Run

/-- Settles O55: a scan under way ends, and in IDLE the next one starts. -/
theorem runningTriggerKeepsScanning : Obligations.RunningTriggerKeepsScanning := by
  intro r env hrun hengine htrigger hreturn harmed n
  induction hgo : (r n).engine.toGo using Nat.strong_induction_on generalizing n with
  | _ go ih =>
    by_cases hidle : (r n).engine.phase = .idle
    · exact exists_scanStartsAt_of_idle hrun harmed hengine htrigger hidle
    · obtain ⟨m, hm, hlt⟩ := exists_toGo_lt hrun harmed hengine hreturn hidle
      obtain ⟨k, hk, hstart⟩ := ih _ (hgo ▸ hlt) m rfl
      exact ⟨k, hm.trans hk, hstart⟩

end Sys2Proof.Machine

end

/-! ### The trigger: its pulse and its commands (43_trigger_control.md) -/

section

namespace Sys2Proof.Machine

/-- Settles O25: a pulse goes through while the trigger is armed and running, and faults otherwise. -/
theorem pulseNeedsARunningTrigger : Obligations.PulseNeedsARunningTrigger := by
  intro s rest hs
  rw [step_tick hs]
  by_cases hruns : s.trig.armed = true ∧ s.trig.run = true
  · rw [if_pos (Bool.and_eq_true_iff.mpr hruns)]
    exact iff_of_false nofun (not_not_intro hruns)
  · rw [if_neg (mt Bool.and_eq_true_iff.mp hruns)]
    exact iff_of_true rfl hruns

/-- No trigger realises the period 0 (43_trigger_control.md R120). -/
@[simp] theorem trigOk_zero : Config.trigOk 0 = false := rfl

/-! The commands, by the trigger's answer and by whether it was ever armed -/

section Commands

variable {s : State}

theorem exec_tarm_of_trigOk (hok : Config.trigOk s.args.period = true) :
    exec .tarm s = .next { s with
      trig := { armed := true, run := true, period := s.args.period }
      out := .armRequest s.args.period (Config.trigOk s.args.period) :: s.out
      status := .ok } :=
  if_pos hok

theorem exec_tarm_of_not_trigOk (hok : ¬ Config.trigOk s.args.period = true) :
    exec .tarm s = .next { s with
      out := .armRequest s.args.period (Config.trigOk s.args.period) :: s.out
      status := .trigFail } :=
  if_neg hok

theorem exec_tstart_of_armed (harmed : s.trig.armed = true) :
    exec .tstart s = .next { s with
      trig := { s.trig with run := true }, out := .startRequest :: s.out, status := .ok } :=
  if_pos harmed

theorem exec_tstart_of_not_armed (harmed : s.trig.armed = false) :
    exec .tstart s = .next { s with status := .ok } :=
  if_neg (ne_true_of_eq_false harmed)

theorem exec_trestart_of_armed (harmed : s.trig.armed = true) :
    exec .trestart s = .next { s with
      trig := { s.trig with run := true }, out := .restartRequest :: s.out, status := .ok } :=
  if_pos harmed

theorem exec_trestart_of_not_armed (harmed : s.trig.armed = false) :
    exec .trestart s = .next { s with status := .ok } :=
  if_neg (ne_true_of_eq_false harmed)

end Commands

/-- Settles O41: by the trigger's answer, which is no for the period 0. -/
theorem tarmArmsAndStarts : Obligations.TarmArmsAndStarts := by
  intro s asked
  refine ⟨?_, fun hzero => by rw [hzero, trigOk_zero]⟩
  split
  · next hok => exact exec_tarm_of_trigOk hok
  · next hok => exact exec_tarm_of_not_trigOk hok

/-- Settles O42: by whether the trigger was ever armed. -/
theorem tstartResumesTheTrigger : Obligations.TstartResumesTheTrigger := fun _ =>
  ⟨exec_tstart_of_armed, exec_tstart_of_not_armed⟩

/-- Settles O43: the command writes the shadow, the observer's record and STATUS, and no more. -/
theorem tstopOnlyStopsTheTrigger : Obligations.TstopOnlyStopsTheTrigger := fun _ => rfl

/-- Settles O44: by whether the trigger was ever armed. -/
theorem trestartRestartsTheTrigger : Obligations.TrestartRestartsTheTrigger := fun _ =>
  ⟨exec_trestart_of_armed, exec_trestart_of_not_armed⟩

end Sys2Proof.Machine

end

/-! ### The result codes (60_exceptions.md R130, R131) -/

section

namespace Sys2Proof.Machine

/-- The rows of the three creates in the table of 60_exceptions.md R131 are one row, by the operand
check of the kind (40_slot_create.md R80). -/
theorem codeLeftBy_createInstr (k : Kind) (p : Bool) (s : State) :
    codeLeftBy (createInstr k p) s =
      if ¬ s.OperandsLegal k then .invalid else if s.TableFull then .full else .ok := by
  cases k with
  | once | forever => exact if_congr (by simp) rfl rfl
  | ntimes => exact if_congr (by simp [imp_iff_not_or]) rfl rfl

/-- A create leaves the code of its row, whichever way it ends (40_slot_create.md R80). -/
theorem State.create_status (s : State) (k : Kind) (p : Bool) :
    (s.create k p).status = codeLeftBy (createInstr k p) s := by
  rw [codeLeftBy_createInstr]
  rcases s.create_cases k p with ⟨hbad, h⟩ | ⟨hok, hfull, h⟩ | ⟨i, hok, ⟨hfree, -⟩, h⟩
  · rw [h, if_pos (mt createOperandsOk_iff.2 (ne_true_of_eq_false hbad))]
    rfl
  · rw [h, if_neg (not_not_intro (createOperandsOk_iff.1 hok)), if_pos hfull]
    rfl
  · have hroom : ¬ s.TableFull := fun hfull => ne_true_of_eq_false hfree (hfull i)
    rw [h, if_neg (not_not_intro (createOperandsOk_iff.1 hok)), if_neg hroom]
    rfl

/-- A control command leaves OK, be its identifier valid or not (41_slot_control.md R90). -/
theorem State.onValidSlot_status (s : State) (n : Nat) (f : SlotId → State → State) :
    (s.onValidSlot n f).status = .ok := by
  rcases s.onValidSlot_cases n f with ⟨i, -, -, h⟩ | ⟨-, h⟩ <;> rw [h] <;> rfl

theorem exec_leaves_codeLeftBy (i : Instr) (s : State) :
    ∃ t, exec i s = .next t ∧ t.status = codeLeftBy i s := by
  cases i with
  | createOnce p => exact ⟨_, rfl, s.create_status .once p⟩
  | createForever p => exact ⟨_, rfl, s.create_status .forever p⟩
  | createN p => exact ⟨_, rfl, s.create_status .ntimes p⟩
  | delete n | enable n | disable n | restart n => exact ⟨_, rfl, s.onValidSlot_status n _⟩
  | tick | tstop => exact ⟨_, rfl, rfl⟩
  | done =>
    by_cases hwait : s.engine.phase = .waitCb
    · exact ⟨_, exec_done_of_waitCb hwait, (if_pos hwait).symm⟩
    · exact ⟨_, exec_done_of_phase_ne hwait, (if_neg hwait).symm⟩
  | tarm =>
    by_cases hok : Config.trigOk s.args.period = true
    · exact ⟨_, exec_tarm_of_trigOk hok, (if_pos hok).symm⟩
    · exact ⟨_, exec_tarm_of_not_trigOk hok, (if_neg hok).symm⟩
  | tstart =>
    cases harmed : s.trig.armed with
    | true => exact ⟨_, exec_tstart_of_armed harmed, rfl⟩
    | false => exact ⟨_, exec_tstart_of_not_armed harmed, rfl⟩
  | trestart =>
    cases harmed : s.trig.armed with
    | true => exact ⟨_, exec_trestart_of_armed harmed, rfl⟩
    | false => exact ⟨_, exec_trestart_of_not_armed harmed, rfl⟩

/-- Settles O45: the code command by command, and INVALID where the decoder refuses the word. -/
theorem everyCommandCompletesWithItsCode : Obligations.EveryCommandCompletesWithItsCode := by
  refine ⟨exec_leaves_codeLeftBy, fun s t w e rest hs hdecode hstep => ?_⟩
  rw [step_cmdWrite hs, hdecode] at hstep
  cases hstep
  rfl

end Sys2Proof.Machine

end

/-! ### Nothing of the block survives a reset (70_reset_and_hazards.md R161) -/

section

namespace Sys2Proof.Machine

/-- What a reset leaves depends on nothing of the block: only on the events to come, on what was
seen, and on which draw of free values is next (log entry 4). -/
theorem State.resetBlock_congr {s t : State} (hschedule : t.schedule = s.schedule)
    (hout : t.out = s.out) (hresets : t.resets = s.resets) : t.resetBlock = s.resetBlock := by
  simp only [State.resetBlock, hschedule, hout, hresets]

/-- Settles O58: both states step to the same reset block. -/
theorem nothingSurvivesReset : Obligations.NothingSurvivesReset := by
  intro s t hreset hschedule hout hresets
  obtain ⟨rest, hs⟩ := List.head?_eq_some_iff.1 hreset
  have ht : t.schedule = .rst :: rest := hschedule.trans hs
  rw [step_rst hs, step_rst ht]
  exact congrArg Host.Outcome.next (State.resetBlock_congr rfl hout hresets)

end Sys2Proof.Machine

end
